-- ==== Sys2Proof/Word.lean ====
section
/-! DEFINITION. The words the block moves (00_scope.md R9): 32-bit command and response words, 24-bit
pixel elements, 25-bit frames, 8-bit fields. -/

namespace Sys2Proof

/-- A command, operand or response word (R9, R70). -/
abbrev Word := BitVec 32

/-- An 8-bit field: an opcode, a result code, a colour channel. -/
abbrev Byte := BitVec 8

/-- A pixel element: red [23:16], green [15:8], blue [7:0] (R24, R53). -/
abbrev Pixel := BitVec 24

/-- A frame: the marker in bit 24, then the 24 colour bits (R31, R121). -/
abbrev FrameWord := BitVec 25

end Sys2Proof
end

