-- ==== Sys2Proof/Config.lean ====
section
/-! DEFINITION. The implementation parameters of 00_scope.md R7, fixed per instance. `Config` is plain data
held in State and changed by no step, so a statement about every state is one about every instance. -/

namespace Sys2Proof

/-- A pin identifier; the source gives no values (R7, D22). -/
abbrev PinId := Nat

/-- The parameters an instance is built with (R7). P and B may be any value in 0..65535 (D23); `N_MAX` is
any value in 0..2^32-1 (D14). -/
structure Config where
  /-- `DATA_PIN`. -/
  dataPin : PinId
  /-- `CLOCK_PIN`. -/
  clockPin : PinId
  /-- `PREAMBLE_PULSES` (P). -/
  preamblePulses : BitVec 16
  /-- `BLANK_PULSES` (B). -/
  blankPulses : BitVec 16
  /-- `SETTLE_MS`. -/
  settleMs : Nat
  /-- `N_MAX`. -/
  nMax : Word
  /-- `CONCURRENT_HOST`. -/
  concurrentHost : Bool
  deriving DecidableEq, Repr

/-- `MARKER_BITS`, fixed (R7). -/
def Config.markerBits : Nat := 1

/-- `COLOR_BITS`, fixed (R7). -/
def Config.colorBits : Nat := 24

/-- `FRAME_BITS = MARKER_BITS + COLOR_BITS` (R7). The behaviour is defined only at 1, 24 and 25: no field
holds another value, so a machine with another frame size cannot be written down (log entry 15). -/
def Config.frameBits : Nat := Config.markerBits + Config.colorBits

/-- The parameters of State.reset: the defaults R7 documents (P = 50, B = 200, SETTLE_MS = 1,
CONCURRENT_HOST = false). DESIGN CHOICE (log entry 3): R7 leaves `DATA_PIN`, `CLOCK_PIN` and `N_MAX` OPEN;
0, 1 and 2^32-1 stand here, and no statement rests on them. -/
def Config.documented : Config where
  dataPin := 0
  clockPin := 1
  preamblePulses := 50#16
  blankPulses := 200#16
  settleMs := 1
  nMax := 0xFFFFFFFF#32
  concurrentHost := false

end Sys2Proof
end

