-- ==== Sys2Proof/Syntax.lean ====
section
/-! DEFINITION. The six commands of 30_encoding.md R74, one constructor for each row of
spec/opcode_table.json. Every operand is one 32-bit unsigned word (R72). -/

namespace Sys2Proof

inductive Instr where
  /-- `INIT count` (R91). -/
  | init (count : Word)
  /-- `SETPX index, color` (R94). -/
  | setpx (index color : Word)
  /-- `SETRGB index, r, g, b` (R95). -/
  | setrgb (index r g b : Word)
  /-- `CLEAR` (R97). -/
  | clear
  /-- `SHOW` (R125). -/
  | showGrid
  /-- `GETPX index` (R98). -/
  | getpx (index : Word)
  deriving DecidableEq, Repr

/-- The operand words in the order they follow the header (R72, R74). -/
def Instr.operands : Instr → List Word
  | .init count => [count]
  | .setpx index color => [index, color]
  | .setrgb index r g b => [index, r, g, b]
  | .clear => []
  | .showGrid => []
  | .getpx index => [index]

/-- The mnemonic of R74's table. -/
def Instr.mnemonic : Instr → String
  | .init _ => "INIT"
  | .setpx _ _ => "SETPX"
  | .setrgb _ _ _ _ => "SETRGB"
  | .clear => "CLEAR"
  | .showGrid => "SHOW"
  | .getpx _ => "GETPX"

/-- A line of an assembler program after its text is split (R79): a command with its operands as written
numbers, or the directive `.word`. -/
inductive SourceLine where
  | command (mnemonic : String) (operands : List Nat)
  | word (value : Nat)
  deriving DecidableEq, Repr

end Sys2Proof
end

