-- ==== Sys2Proof/WellFormed.lean ====
section
/-! DEFINITION. What is checked of syntax and of parameters before the machine sees them. An `Instr` needs no
check: each operand is any 32-bit word (R72, R73), and the type says so. A source line is checked as R79 says;
the parameters as R7 says. -/

namespace Sys2Proof

/-- Every operand value of a command is admitted: COUNT and INDEX are 0..2^32-1, COLOR's upper bits are ignored
and a channel is clamped; none is an error of form (R73). -/
def Instr.wf (_ : Instr) : Bool := true

/-- The number of operands R79's form of a mnemonic has; none for a word that is no mnemonic. Upper case only. -/
def operandCount (mnemonic : String) : Option Nat :=
  if mnemonic = "INIT" then some 1
  else if mnemonic = "SETPX" then some 2
  else if mnemonic = "SETRGB" then some 4
  else if mnemonic = "CLEAR" then some 0
  else if mnemonic = "SHOW" then some 0
  else if mnemonic = "GETPX" then some 1
  else none

/-- A written number fits an operand word (R79: "a value in 0..2^32-1"). -/
def fitsWord (n : Nat) : Bool := decide (n < 2 ^ 32)

/-- R79: an assembler refuses an unknown mnemonic, a wrong operand count or a value that does not fit. -/
def SourceLine.wf : SourceLine → Bool
  | .command mnemonic operands => decide (operandCount mnemonic = some operands.length) && operands.all fitsWord
  | .word value => fitsWord value

/-- R7: the two pin identifiers must differ. The other ranges of R7 are the types' own. -/
def Config.wf (c : Config) : Bool := decide (c.dataPin ≠ c.clockPin)

end Sys2Proof
end

