-- ==== Sys2Proof/Decode.lean ====
section
/-! DEFINITION. The command decoder of 30_encoding.md R70 to R76, total over any stream of words, and the encoder
written from the same table. -/

namespace Sys2Proof

/-- `OPC`, bits [7:0] of the header (R70). -/
def opcodeField (header : Word) : Byte := header.extractLsb' 0 8

/-- `RSV`, bits [31:8] of the header (R70). -/
def reservedField (header : Word) : BitVec 24 := header.extractLsb' 8 24

/-- The length in words of a command, by its `OPC` alone (R71, R74); a reserved `OPC` is one word. -/
def commandWords (opc : Byte) : Nat :=
  if opc = 0x01#8 then 2
  else if opc = 0x02#8 then 3
  else if opc = 0x03#8 then 5
  else if opc = 0x06#8 then 2
  else 1

/-- Why a header is illegal (R76). -/
inductive BadHeader where
  /-- `OPC` is 0x00 or in 0x07..0xFF. -/
  | reservedOpcode
  /-- `RSV` is not 0 and `OPC` is a defined one. -/
  | reservedBits
  deriving DecidableEq, Repr

/-- What the decoder makes of the words on a port (R75). -/
inductive Decoded where
  /-- The command is not complete: the decoder waits, nothing is consumed. -/
  | incomplete
  /-- `BadCommand`; `rest` are the words not consumed. -/
  | bad (why : BadHeader) (rest : List Word)
  /-- A command; `rest` are the words not consumed. -/
  | command (i : Instr) (rest : List Word)
  deriving DecidableEq, Repr

/-- R75's last test, made once all words of the command are there: `RSV` must be 0. -/
def checkReserved (header : Word) (i : Instr) (rest : List Word) : Decoded :=
  if reservedField header = 0#24 then .command i rest else .bad .reservedBits rest

def decodeInit (header : Word) : List Word → Decoded
  | count :: rest => checkReserved header (.init count) rest
  | [] => .incomplete

def decodeSetpx (header : Word) : List Word → Decoded
  | index :: color :: rest => checkReserved header (.setpx index color) rest
  | _ => .incomplete

def decodeSetrgb (header : Word) : List Word → Decoded
  | index :: r :: g :: b :: rest => checkReserved header (.setrgb index r g b) rest
  | _ => .incomplete

def decodeClear (header : Word) (rest : List Word) : Decoded := checkReserved header .clear rest

def decodeShow (header : Word) (rest : List Word) : Decoded := checkReserved header .showGrid rest

def decodeGetpx (header : Word) : List Word → Decoded
  | index :: rest => checkReserved header (.getpx index) rest
  | [] => .incomplete

/-- The command that begins at the first word not yet consumed (R74, R75). -/
def decode : List Word → Decoded
  | [] => .incomplete
  | header :: words =>
    if opcodeField header = 0x01#8 then decodeInit header words
    else if opcodeField header = 0x02#8 then decodeSetpx header words
    else if opcodeField header = 0x03#8 then decodeSetrgb header words
    else if opcodeField header = 0x04#8 then decodeClear header words
    else if opcodeField header = 0x05#8 then decodeShow header words
    else if opcodeField header = 0x06#8 then decodeGetpx header words
    else .bad .reservedOpcode words

/-- The header word of a command, one exact 32-bit pattern (R74). -/
def headerWord : Instr → Word
  | .init _ => 0x00000001#32
  | .setpx _ _ => 0x00000002#32
  | .setrgb _ _ _ _ => 0x00000003#32
  | .clear => 0x00000004#32
  | .showGrid => 0x00000005#32
  | .getpx _ => 0x00000006#32

/-- The words of a command: its header, then its operands in order (R70, R72, R79). -/
def encode (i : Instr) : List Word := headerWord i :: i.operands

/-- Five command words (the longest command, R71) from a number whose bit 0 is bit 0 of the first word, later
words counting on from it; bits at and above `nbits` are 0. -/
def tableWords (nbits w : Nat) : List Word :=
  [0, 1, 2, 3, 4].map fun k => BitVec.ofNat 32 ((w % 2 ^ nbits) >>> (32 * k))

/-- The words of the one command that `tableWords` begins with (R71). -/
def tableCommand (nbits w : Nat) : List Word :=
  (tableWords nbits w).take (commandWords (opcodeField (BitVec.ofNat 32 (w % 2 ^ nbits))))

/-- What the decoder reads from a row of spec/opcode_table.json laid out as words. -/
def decodeTableWord (nbits w : Nat) : Option Instr :=
  match decode (tableWords nbits w) with
  | .command i _ => some i
  | .bad _ _ => none
  | .incomplete => none

end Sys2Proof
end

