-- ==== Sys2Proof/Machine/State.lean ====
section
/-! DEFINITION. The state of the block (10_state.md R21 to R32), its ports and observations (R35, R36), the inputs
(R41, R169 to R171), the reasons a step can stop, and the state after reset (R39). -/

namespace Sys2Proof.Machine

/-- The engine state (R22). -/
inductive Mode where
  | uninit
  | initializing
  | idle
  | tx
  deriving DecidableEq, Repr

/-- The sequencer phase, the block's program counter (R27). -/
inductive Phase where
  /-- `NONE`. -/
  | noPhase
  | iSetup
  | iCfgD
  | iCfgC
  | tDlow
  | tPreHi
  | tPreLo
  | tBitD
  | tBitHi
  | tBitLo
  | tBlkDlow
  | tBlkHi
  | tBlkLo
  | tSettle
  deriving DecidableEq, Repr

/-- A line level the block remembers: 0, 1, or `X`, not written since reset (R12, R32). -/
inductive Level where
  | low
  | high
  | x
  deriving DecidableEq, Repr

/-- A result code (60_exceptions.md R160). -/
inductive ResultCode where
  | ok
  | initFailed
  | notInitialized
  | alreadyInitialized
  | outOfRange
  | badCommand
  | countTooLarge
  | busy
  deriving DecidableEq, Repr

/-- A host port: `CMD0`/`RSP0` of host `H0`, `CMD1`/`RSP1` of host `H1` (R35). -/
inductive Port where
  | h0
  | h1
  deriving DecidableEq, Repr

/-- The collaborator's answer to `Setup` and `Cfg` (R169, R171). -/
inductive Answer where
  | ok
  | fail
  deriving DecidableEq, Repr

/-- A response: the status code, and GETPX's data word (30_encoding.md R77). -/
structure Response where
  status : ResultCode
  data : Option Word
  deriving DecidableEq, Repr

/-- A collaborator request, an element of the port trace (R36, R169). -/
inductive Request where
  /-- `Setup`. -/
  | setup
  /-- `Cfg(pin)`. -/
  | cfg (pin : PinId)
  /-- `W(pin, level)`; `true` is logic high. -/
  | write (pin : PinId) (level : Bool)
  /-- `Sleep(ms)`. -/
  | sleep (ms : Nat)
  deriving DecidableEq, Repr

/-- One move of one agent (R20, R41, R190). A list of turns is how the environment acts and how the agents
interleave: the model's input (log entry 1). -/
inductive Turn where
  /-- A host puts a word on its command port (R41 a). -/
  | host (p : Port) (w : Word)
  /-- The sequencer's accept step at a port (R41 b). -/
  | accept (p : Port)
  /-- The collaborator takes the outstanding request and answers, so the phase step fires (R41 c, R170). The answer
  counts for `Setup` and `Cfg` only. -/
  | take (a : Answer)
  /-- Reset is asserted (R190). -/
  | reset
  deriving DecidableEq, Repr

/-- The stops of the model. The block itself has none (R161). -/
inductive Fault where
  /-- A pixel element is accessed where MemRead and MemWrite are not defined (R52). Raised by the element operations.
  Safe: no state that meets the invariant reaches it (log entry 9). -/
  | noElement
  /-- `T_BIT_D` with `bit_idx` above 24 (R30). Raised by the frame bit's phase step. Safe: no state that meets the
  invariant reaches it (log entry 9). -/
  | noFrameBit
  deriving DecidableEq, Repr

/-- What the model gives no meaning. -/
inductive Refusal where
  /-- An instruction not modelled yet, raised by exec's arm. Safe. None is left. -/
  | notModelled (mnemonic : String)
  /-- A turn at `CMD1` of an instance without it (R35: "present only when CONCURRENT_HOST = true"). Raised by the host
  and accept turns. Safe (log entry 10). -/
  | portAbsent
  deriving DecidableEq, Repr

/-- The elements of the pixel buffer that are not 0, by index (R24, R50). Canonical form: `Memory.wf`. -/
abbrev Memory := List (Nat × Pixel)

/-- The machine. The twelve fields `mode` to `clkLvl` are R21's elements S1 to S12. -/
structure State where
  /-- The parameters (R7); no step changes them. -/
  cfg : Config
  /-- S1 (R22). -/
  mode : Mode
  /-- S2, the pixel count (R23). -/
  N : Word
  /-- S3, the pixel buffer (R24); an index below `N` that is not listed holds 0. -/
  buf : Memory
  /-- S4 (R25). -/
  status : ResultCode
  /-- S5 (R27). -/
  phase : Phase
  /-- S6, INIT's COUNT while it runs (R27). -/
  pendCount : Word
  /-- S7 (R28). -/
  pulseCnt : BitVec 16
  /-- S8 (R29). -/
  pixIdx : Word
  /-- S9 (R30). -/
  bitIdx : BitVec 5
  /-- S10 (R31). -/
  shreg : FrameWord
  /-- S11 (R32). -/
  dataLvl : Level
  /-- S12 (R32). -/
  clkLvl : Level
  /-- The words on `CMD0` not yet consumed (R35, R75). -/
  cmd0 : List Word
  /-- The words on `CMD1` not yet consumed. -/
  cmd1 : List Word
  /-- The responses sent on `RSP0`, oldest first (R35, R77). -/
  rsp0 : List Response
  /-- The responses sent on `RSP1`, oldest first. -/
  rsp1 : List Response
  /-- The port trace `T`, oldest first (R36). The block never reads it. -/
  trace : List Request
  /-- The port of the command now at its accept step (R90). -/
  port : Port
  /-- The port of the INIT or SHOW in progress, which its response goes to (R78, R90). -/
  owner : Port
  /-- The moves to come, the next one first (log entry 1). -/
  turns : List Turn
  deriving DecidableEq, Repr

/-- Reset (R39, R190). DESIGN CHOICE (log entry 4): `N`, `pend_count`, `pulse_cnt`, `pix_idx`, `bit_idx` and `shreg` are
unspecified there; 0 stands. DESIGN CHOICE (log entries 1, 3, 6): `turns`, the OPEN parameters, `port`, `owner`. -/
def State.reset : State where
  cfg := Config.documented
  mode := .uninit
  N := 0#32
  buf := []
  status := .ok
  phase := .noPhase
  pendCount := 0#32
  pulseCnt := 0#16
  pixIdx := 0#32
  bitIdx := 0#5
  shreg := 0#25
  dataLvl := .x
  clkLvl := .x
  cmd0 := []
  cmd1 := []
  rsp0 := []
  rsp1 := []
  trace := []
  port := .h0
  owner := .h0
  turns := []

end Sys2Proof.Machine
end

