-- ==== Sys2Proof/Machine/Flags.lean ====
section
/-! DEFINITION. The block has no condition flags (10_state.md R34): its indications are `mode`, `busy`,
`initialized` and the result code. Their numbers and the response words are here. -/

namespace Sys2Proof.Machine

/-- R34: the source's Transmitting state, widened to include INIT. -/
def State.busy (s : State) : Bool := decide (s.mode = .initializing) || decide (s.mode = .tx)

/-- R34: `mode` is IDLE or TX. -/
def State.initialized (s : State) : Bool := decide (s.mode = .idle) || decide (s.mode = .tx)

/-- R22's 2-bit encoding. -/
def modeBits : Mode → BitVec 2
  | .uninit => 0#2
  | .initializing => 1#2
  | .idle => 2#2
  | .tx => 3#2

/-- R160's code numbers. -/
def codeByte : ResultCode → Byte
  | .ok => 0x00#8
  | .initFailed => 0x01#8
  | .notInitialized => 0x02#8
  | .alreadyInitialized => 0x03#8
  | .outOfRange => 0x04#8
  | .badCommand => 0x05#8
  | .countTooLarge => 0x06#8
  | .busy => 0x07#8

/-- The code a status byte stands for; 0x08..0xFF are reserved and refused (R160, V6). -/
def codeOfByte (b : Byte) : Option ResultCode :=
  if b = 0x00#8 then some .ok
  else if b = 0x01#8 then some .initFailed
  else if b = 0x02#8 then some .notInitialized
  else if b = 0x03#8 then some .alreadyInitialized
  else if b = 0x04#8 then some .outOfRange
  else if b = 0x05#8 then some .badCommand
  else if b = 0x06#8 then some .countTooLarge
  else if b = 0x07#8 then some .busy
  else none

/-- The words of a response (R77): `STATUS` in bits [7:0] of word 0, zeros above it; then `DATA` where there is one. -/
def responseWords (r : Response) : List Word :=
  (codeByte r.status).setWidth 32 :: r.data.toList

/-- A level the block has written. -/
def levelOf (b : Bool) : Level := if b then .high else .low

end Sys2Proof.Machine
end

