-- ==== Sys2Proof/Machine/Operands.lean ====
section
/-! DEFINITION. Operand assembly (30_encoding.md R73), the element layout (20_memory.md R53) and the frame of an
element (41_protocol_engine.md R121). COUNT and INDEX are used as they stand. -/

namespace Sys2Proof.Machine

/-- `COLOR & 0x00FFFFFF`, the 24 bits that are stored (R73, R94). -/
def colorPixel (color : Word) : Pixel := (color &&& 0x00FFFFFF#32).extractLsb' 0 24

/-- `clamp8(x) = min(x, 255)` (R73, C1). -/
def clamp8 (x : Word) : Byte := BitVec.ofNat 8 (min x.toNat 255)

/-- `blue | (green << 8) | (red << 16)` (R53, R95). -/
def packRgb (r g b : Byte) : Pixel :=
  b.setWidth 24 ||| (g.setWidth 24 <<< 8) ||| (r.setWidth 24 <<< 16)

/-- What SETRGB stores: each channel clamped, then packed (R95). -/
def channelsPixel (r g b : Word) : Pixel := packRgb (clamp8 r) (clamp8 g) (clamp8 b)

/-- `frame(v) = (1 << 24) | v[23:0]` (R121). -/
def frame (v : Pixel) : FrameWord := (1#25 <<< 24) ||| v.setWidth 25

end Sys2Proof.Machine
end

