-- ==== Sys2Proof/Machine/Ops.lean ====
section
/-! DEFINITION. The shared operations: one element of the buffer (20_memory.md R50 to R52), a collaborator request
(R36), a line write (R32), a response (30_encoding.md R77), and an error, the block's only exception
(00_scope.md R11, 60_exceptions.md R161). -/

namespace Sys2Proof.Machine

/-! ### The pixel buffer -/

/-- Canonical form: indices strictly rising, no entry equal to 0, which an unlisted index reads as. -/
def Memory.wf : Memory → Bool
  | [] => true
  | (k, v) :: m => decide (v ≠ 0#24) && m.all (fun c => decide (k < c.1)) && Memory.wf m

/-- The element at an index; an index that is not listed holds 0 (R92: INIT creates every element 0). -/
def memLookup : Memory → Nat → Pixel
  | [], _ => 0#24
  | (a, v) :: m, k => if a = k then v else memLookup m k

/-- Writes one element, keeping the canonical form: writing 0 removes the entry. -/
def memInsert : Memory → Nat → Pixel → Memory
  | [], k, v => if v = 0#24 then [] else [(k, v)]
  | (a, x) :: m, k, v =>
    if k < a then (if v = 0#24 then (a, x) :: m else (k, v) :: (a, x) :: m)
    else if k = a then (if v = 0#24 then m else (k, v) :: m)
    else (a, x) :: memInsert m k v

/-- R52: MemRead and MemWrite are defined only for `k < S.N` and `S.mode` not UNINIT. -/
def State.elementDefined (s : State) (k : Word) : Bool := decide (s.mode ≠ .uninit) && decide (k < s.N)

/-- `MemRead(k, 1)` (R11); none where it is not defined. -/
def memRead (k : Word) (s : State) : Option Pixel :=
  if s.elementDefined k then some (memLookup s.buf k.toNat) else none

/-- `MemWrite(k, 1, v)` (R11); none where it is not defined. -/
def memWrite (k : Word) (v : Pixel) (s : State) : Option State :=
  if s.elementDefined k then some { s with buf := memInsert s.buf k.toNat v } else none

/-! ### Requests and line writes -/

/-- `request(e)`: `e` is appended to the port trace (R11, R36). -/
def request (e : Request) (s : State) : State := { s with trace := s.trace ++ [e] }

/-- `request(W(DATA_PIN, b)) ; S.data_lvl <- b` (R32). -/
def writeData (b : Bool) (s : State) : State :=
  { request (.write s.cfg.dataPin b) s with dataLvl := levelOf b }

/-- `request(W(CLOCK_PIN, b)) ; S.clk_lvl <- b` (R32). -/
def writeClock (b : Bool) (s : State) : State :=
  { request (.write s.cfg.clockPin b) s with clkLvl := levelOf b }

/-! ### Ports, responses, errors -/

/-- The words on a command port not yet consumed. -/
def State.words (s : State) : Port → List Word
  | .h0 => s.cmd0
  | .h1 => s.cmd1

/-- The responses sent on a port. -/
def State.responses (s : State) : Port → List Response
  | .h0 => s.rsp0
  | .h1 => s.rsp1

/-- Leaves `ws` as the words of a port not yet consumed. -/
def setWords (p : Port) (ws : List Word) (s : State) : State :=
  match p with
  | .h0 => { s with cmd0 := ws }
  | .h1 => { s with cmd1 := ws }

/-- Sends a response on a port. -/
def pushResponse (p : Port) (r : Response) (s : State) : State :=
  match p with
  | .h0 => { s with rsp0 := s.rsp0 ++ [r] }
  | .h1 => { s with rsp1 := s.rsp1 ++ [r] }

/-- `S.status <- code ; respond(code)` on a port: the end of a command (R11, R25, R77). -/
def respondOn (p : Port) (code : ResultCode) (data : Option Word) (s : State) : State :=
  { pushResponse p { status := code, data := data } s with status := code }

/-- `S.status <- OK ; respond(OK)` of an accept step, on the command's own port (R90). -/
def respondOk (data : Option Word) (s : State) : State := respondOn s.port .ok data s

/-- `raise Err(code)` (R11, R161): the command ends with `code` and has no other effect. Nothing is saved, no mode or
mask changes, no handler is entered, and there is no return. -/
def raiseError (code : ResultCode) (s : State) : State := respondOn s.port code none s

end Sys2Proof.Machine
end

