-- ==== Sys2Proof/Machine/Buffer.lean ====
section
/-! DEFINITION. The meanings of SETPX, SETRGB, CLEAR and GETPX (40_pixel_buffer.md R94 to R98): each completes in one
atomic accept step (R90). -/

namespace Sys2Proof.Machine

/-- R94's body, which SETRGB is "passed to" as well (R95): the checks, the write, the response. -/
def storePixel (index : Word) (v : Pixel) (s : State) : Host.Outcome State Fault Refusal :=
  if s.initialized = false then .next (raiseError .notInitialized s)
  else if s.N ≤ index then .next (raiseError .outOfRange s)
  else
    match memWrite index v s with
    | some s' => .next (respondOk none s')
    | none => .fault .noElement

/-- SETPX (R94). -/
def execSetpx (index color : Word) (s : State) : Host.Outcome State Fault Refusal :=
  storePixel index (colorPixel color) s

/-- SETRGB (R95). -/
def execSetrgb (index r g b : Word) (s : State) : Host.Outcome State Fault Refusal :=
  storePixel index (channelsPixel r g b) s

/-- CLEAR (R97): every element 0 in one atomic step, so no element is listed. -/
def execClear (s : State) : Host.Outcome State Fault Refusal :=
  if s.initialized = false then .next (raiseError .notInitialized s)
  else .next (respondOk none { s with buf := [] })

/-- GETPX (R98): the element zero-extended to 32 bits. -/
def execGetpx (index : Word) (s : State) : Host.Outcome State Fault Refusal :=
  if s.initialized = false then .next (raiseError .notInitialized s)
  else if s.N ≤ index then .next (raiseError .outOfRange s)
  else
    match memRead index s with
    | some v => .next (respondOk (some (v.setWidth 32)) s)
    | none => .fault .noElement

end Sys2Proof.Machine
end

