-- ==== Sys2Proof/Machine/Init.lean ====
section
/-! DEFINITION. INIT: its accept step (40_pixel_buffer.md R91) and its phase steps (R92, R93). -/

namespace Sys2Proof.Machine

/-- INIT's accept step (R91): no request and no response when it is admitted. -/
def execInit (count : Word) (s : State) : Host.Outcome State Fault Refusal :=
  if s.busy = true then .next (raiseError .busy s)
  else if s.mode = .idle then .next (raiseError .alreadyInitialized s)
  else if s.cfg.nMax < count then .next (raiseError .countTooLarge s)
  else .next { s with pendCount := count, mode := .initializing, phase := .iSetup, owner := s.port }

/-- `INIT_FAIL` (R93). -/
def initFail (s : State) : State :=
  respondOn s.owner .initFailed none { s with mode := .uninit, phase := .noPhase }

/-- Phase `I_SETUP` (R92). -/
def phaseISetup (a : Answer) (s : State) : State :=
  match a with
  | .fail => initFail (request .setup s)
  | .ok => { request .setup s with phase := .iCfgD }

/-- Phase `I_CFG_D` (R92). -/
def phaseICfgD (a : Answer) (s : State) : State :=
  match a with
  | .fail => initFail (request (.cfg s.cfg.dataPin) s)
  | .ok => { request (.cfg s.cfg.dataPin) s with phase := .iCfgC }

/-- The success of INIT (R92): `N` elements, each 0, so none is listed. -/
def initSucceed (s : State) : State :=
  respondOn s.owner .ok none { s with N := s.pendCount, buf := [], mode := .idle, phase := .noPhase }

/-- Phase `I_CFG_C` (R92). -/
def phaseICfgC (a : Answer) (s : State) : State :=
  match a with
  | .fail => initFail (request (.cfg s.cfg.clockPin) s)
  | .ok => initSucceed (request (.cfg s.cfg.clockPin) s)

end Sys2Proof.Machine
end

