-- ==== Sys2Proof/Machine/Refresh.lean ====
section
/-! DEFINITION. SHOW: its accept step (41_protocol_engine.md R125) and the phase steps of the refresh sequencer
(R129 to R138), one request each. -/

namespace Sys2Proof.Machine

/-- SHOW's accept step (R125): no request yet. -/
def execShowGrid (s : State) : Host.Outcome State Fault Refusal :=
  if s.busy = true then .next (raiseError .busy s)
  else if s.mode = .uninit then .next (raiseError .notInitialized s)
  else .next { s with mode := .tx, phase := .tDlow, owner := s.port }

/-- `AFTER_PRE` (41_protocol_engine.md section 3). -/
def afterPreamble (s : State) : State :=
  if 0#32 < s.N then { s with pixIdx := 0#32, bitIdx := 24#5, phase := .tBitD }
  else { s with phase := .tBlkDlow }

/-- Phase `T_DLOW` (R129). -/
def phaseTDlow (s : State) : State :=
  if 0#16 < s.cfg.preamblePulses then { writeData false s with pulseCnt := 0#16, phase := .tPreHi }
  else afterPreamble { writeData false s with pulseCnt := 0#16 }

/-- Phase `T_PRE_HI` (R130). -/
def phaseTPreHi (s : State) : State := { writeClock true s with phase := .tPreLo }

/-- Phase `T_PRE_LO` (R131). -/
def phaseTPreLo (s : State) : State :=
  if s.pulseCnt + 1#16 = s.cfg.preamblePulses then
    afterPreamble { writeClock false s with pulseCnt := s.pulseCnt + 1#16 }
  else { writeClock false s with pulseCnt := s.pulseCnt + 1#16, phase := .tPreHi }

/-- At bit 24 the frame of the current pixel is loaded (R31, R132); none where MemRead is not defined. -/
def loadFrame (s : State) : Option State :=
  if s.bitIdx = 24#5 then (memRead s.pixIdx s).map fun v => { s with shreg := frame v } else some s

/-- The data write of one frame bit (R132): `b <- S.shreg[S.bit_idx]`. -/
def sendBit (s : State) : State :=
  { writeData (s.shreg.getLsbD s.bitIdx.toNat) s with phase := .tBitHi }

/-- Phase `T_BIT_D` (R132). The frame has no bit above 24 (R30). -/
def phaseTBitD (s : State) : Host.Outcome State Fault Refusal :=
  if 24#5 < s.bitIdx then .fault .noFrameBit
  else
    match loadFrame s with
    | some s' => .next (sendBit s')
    | none => .fault .noElement

/-- Phase `T_BIT_HI` (R133). -/
def phaseTBitHi (s : State) : State := { writeClock true s with phase := .tBitLo }

/-- Phase `T_BIT_LO` (R134). -/
def phaseTBitLo (s : State) : State :=
  if 0#5 < s.bitIdx then { writeClock false s with bitIdx := s.bitIdx - 1#5, phase := .tBitD }
  else if s.pixIdx + 1#32 < s.N then
    { writeClock false s with pixIdx := s.pixIdx + 1#32, bitIdx := 24#5, phase := .tBitD }
  else { writeClock false s with pixIdx := s.pixIdx + 1#32, phase := .tBlkDlow }

/-- Phase `T_BLK_DLOW` (R135). -/
def phaseTBlkDlow (s : State) : State :=
  if 0#16 < s.cfg.blankPulses then { writeData false s with pulseCnt := 0#16, phase := .tBlkHi }
  else { writeData false s with pulseCnt := 0#16, phase := .tSettle }

/-- Phase `T_BLK_HI` (R136). -/
def phaseTBlkHi (s : State) : State := { writeClock true s with phase := .tBlkLo }

/-- Phase `T_BLK_LO` (R137). -/
def phaseTBlkLo (s : State) : State :=
  if s.pulseCnt + 1#16 = s.cfg.blankPulses then
    { writeClock false s with pulseCnt := s.pulseCnt + 1#16, phase := .tSettle }
  else { writeClock false s with pulseCnt := s.pulseCnt + 1#16, phase := .tBlkHi }

/-- Phase `T_SETTLE` (R138): the pause, and the end of SHOW. -/
def phaseTSettle (s : State) : State :=
  respondOn s.owner .ok none { request (.sleep s.cfg.settleMs) s with mode := .idle, phase := .noPhase }

end Sys2Proof.Machine
end

