-- ==== Sys2Proof/Machine/Dispatch.lean ====
section
/-! DEFINITION. The sequencer's accept step of each command (10_state.md R41 b), one arm a command. -/

namespace Sys2Proof.Machine

def exec (i : Instr) (s : State) : Host.Outcome State Fault Refusal :=
  match i with
  | .init count => Sys2Proof.Machine.execInit count s
  | .setpx index color => Sys2Proof.Machine.execSetpx index color s
  | .setrgb index r g b => Sys2Proof.Machine.execSetrgb index r g b s
  | .clear => Sys2Proof.Machine.execClear s
  | .showGrid => Sys2Proof.Machine.execShowGrid s
  | .getpx index => Sys2Proof.Machine.execGetpx index s

end Sys2Proof.Machine
end

