-- ==== Sys2Proof/Machine/Turns.lean ====
section
/-! DEFINITION. The moves of the agents (10_state.md R20, R40, R41): a host's word, the accept step, the phase step
the collaborator's taking fires, reset. -/

namespace Sys2Proof.Machine

/-- R35: `CMD1` and `RSP1` exist only when `CONCURRENT_HOST` is true. -/
def State.portPresent (s : State) : Port → Bool
  | .h0 => true
  | .h1 => s.cfg.concurrentHost

/-- R40: `CMD0` takes no command while `busy` holds; `CMD1` always takes one. -/
def State.portTakes (s : State) : Port → Bool
  | .h0 => !s.busy
  | .h1 => true

/-- The accept step has its command: `port` names where it came from, and its words are consumed (R75, R90). -/
def consume (p : Port) (rest : List Word) (s : State) : State := { setWords p rest s with port := p }

/-- The accept step at a port (R41 b): the decoded command runs; a BadCommand is `raise Err(BAD_COMMAND)` (R76); an
incomplete command is waited for (R75). -/
def acceptCommand (p : Port) (s : State) : Host.Outcome State Fault Refusal :=
  match decode (s.words p) with
  | .incomplete => .next s
  | .bad _ rest => .next (raiseError .badCommand (consume p rest s))
  | .command i rest => exec i (consume p rest s)

/-- The accept turn: an absent port is refused (log entry 10); a port that holds its command lets the turn pass (R40,
log entry 11). -/
def acceptTurn (p : Port) (s : State) : Host.Outcome State Fault Refusal :=
  if s.portPresent p = false then .refused .portAbsent
  else if s.portTakes p = false then .next s
  else acceptCommand p s

/-- A host puts a word on its port, after the words already there (R35, R41 a). -/
def hostTurn (p : Port) (w : Word) (s : State) : Host.Outcome State Fault Refusal :=
  if s.portPresent p = false then .refused .portAbsent
  else .next (setWords p (s.words p ++ [w]) s)

/-- The phase step (R27, R41 c): the rule of the current phase, fired by the collaborator's taking its request. In phase
NONE no request is outstanding and the turn passes (log entry 11). -/
def phaseStep (a : Answer) (s : State) : Host.Outcome State Fault Refusal :=
  match s.phase with
  | .noPhase => .next s
  | .iSetup => .next (phaseISetup a s)
  | .iCfgD => .next (phaseICfgD a s)
  | .iCfgC => .next (phaseICfgC a s)
  | .tDlow => .next (phaseTDlow s)
  | .tPreHi => .next (phaseTPreHi s)
  | .tPreLo => .next (phaseTPreLo s)
  | .tBitD => phaseTBitD s
  | .tBitHi => .next (phaseTBitHi s)
  | .tBitLo => .next (phaseTBitLo s)
  | .tBlkDlow => .next (phaseTBlkDlow s)
  | .tBlkHi => .next (phaseTBlkHi s)
  | .tBlkLo => .next (phaseTBlkLo s)
  | .tSettle => .next (phaseTSettle s)

/-- Reset (R39, R190): every element at its reset value, unconsumed words dropped, a new trace, no request and no
response. The parameters, the responses already sent and the moves to come stand (log entries 3, 7). -/
def resetBlock (s : State) : State :=
  { State.reset with cfg := s.cfg, rsp0 := s.rsp0, rsp1 := s.rsp1, turns := s.turns }

/-- One move. -/
def takeTurn (t : Turn) (s : State) : Host.Outcome State Fault Refusal :=
  match t with
  | .host p w => hostTurn p w s
  | .accept p => acceptTurn p s
  | .take a => phaseStep a s
  | .reset => .next (resetBlock s)

/-- A whole command, good or bad, waits at a port that takes it (R40, R75). -/
def State.commandReady (s : State) (p : Port) : Bool :=
  s.portTakes p && decide (decode (s.words p) ≠ .incomplete)

/-- No move is listed: the environment does nothing more, and the sequencer accepts what it can, `CMD0` first. Without a
command it can take it waits; a request that nobody takes hangs (R170). DESIGN CHOICE (log entries 2, 12). -/
def idleTurn (s : State) : Host.Outcome State Fault Refusal :=
  if s.commandReady .h0 = true then acceptCommand .h0 s
  else if s.portPresent .h1 = true then acceptCommand .h1 s
  else .next s

/-- Makes `CMD0` able to take a command: an INIT or SHOW in progress is ended (log entry 14). -/
def freeSequencer (s : State) : State :=
  if s.mode = .initializing then { s with mode := .uninit, phase := .noPhase }
  else if s.mode = .tx then { s with mode := .idle, phase := .noPhase }
  else s

/-- The words `ws` are the next on `CMD0`, and the next turn is the accept step there (log entries 13, 14). -/
def placeCommand (ws : List Word) (s : State) : State :=
  { freeSequencer s with cmd0 := ws ++ s.cmd0, turns := .accept .h0 :: s.turns }

end Sys2Proof.Machine
end

