-- ==== Sys2Proof/Machine/Assembler.lean ====
section
/-! DEFINITION. The assembler of 30_encoding.md R79, on the characters of a line. What R79 leaves open of the text (blank
characters, the case of hexadecimal digits, empty lines) is log entry 18. -/

namespace Sys2Proof.Machine

/-- The header of R74 for a mnemonic. -/
def mnemonicHeader (m : String) : Option Word :=
  if m = "INIT" then some 0x00000001#32
  else if m = "SETPX" then some 0x00000002#32
  else if m = "SETRGB" then some 0x00000003#32
  else if m = "CLEAR" then some 0x00000004#32
  else if m = "SHOW" then some 0x00000005#32
  else if m = "GETPX" then some 0x00000006#32
  else none

/-- The words of a line: its header word, then its operands in written order; `.word w` is one raw word. A line that is
not well formed is refused (R79). -/
def assembleLine (l : SourceLine) : Option (List Word) :=
  if l.wf then
    match l with
    | .word w => some [BitVec.ofNat 32 w]
    | .command m operands => (mnemonicHeader m).map fun h => h :: operands.map (BitVec.ofNat 32)
  else none

/-- A blank character between the parts of a line. -/
def isBlank (c : Char) : Bool := decide (c = ' ') || decide (c = '\t') || decide (c = '\r')

/-- R79: `;` starts a comment that runs to the end of the line. -/
def stripComment : List Char → List Char
  | [] => []
  | c :: cs => if c = ';' then [] else c :: stripComment cs

def trimBlanks (cs : List Char) : List Char :=
  ((cs.dropWhile isBlank).reverse.dropWhile isBlank).reverse

/-- The pieces of a text between separators; always at least one. -/
def splitAt (sep : Char) : List Char → List (List Char)
  | [] => [[]]
  | c :: cs =>
    if c = sep then [] :: splitAt sep cs
    else
      match splitAt sep cs with
      | [] => [[c]]
      | p :: ps => (c :: p) :: ps

def digitValue (c : Char) : Option Nat :=
  if '0'.toNat ≤ c.toNat ∧ c.toNat ≤ '9'.toNat then some (c.toNat - '0'.toNat)
  else if 'a'.toNat ≤ c.toNat ∧ c.toNat ≤ 'f'.toNat then some (c.toNat - 'a'.toNat + 10)
  else if 'A'.toNat ≤ c.toNat ∧ c.toNat ≤ 'F'.toNat then some (c.toNat - 'A'.toNat + 10)
  else none

def parseDigits (base : Nat) : Nat → List Char → Option Nat
  | acc, [] => some acc
  | acc, c :: cs =>
    match digitValue c with
    | none => none
    | some d => if d < base then parseDigits base (acc * base + d) cs else none

/-- R79: a decimal number or a `0x` hexadecimal number. -/
def parseNumber : List Char → Option Nat
  | [] => none
  | ['0', 'x'] => none
  | '0' :: 'x' :: ds => parseDigits 16 0 ds
  | ds => parseDigits 10 0 ds

def parseNumbers : List (List Char) → Option (List Nat)
  | [] => some []
  | p :: ps =>
    match parseNumber (trimBlanks p), parseNumbers ps with
    | some n, some ns => some (n :: ns)
    | _, _ => none

/-- R79: `[operand {, operand}]`. -/
def parseOperands (cs : List Char) : Option (List Nat) :=
  if trimBlanks cs = [] then some [] else parseNumbers (splitAt ',' cs)

/-- A line of text: refused (`none`), empty (`some none`), or a source line. -/
def parseLine (text : List Char) : Option (Option SourceLine) :=
  if trimBlanks (stripComment text) = [] then some none
  else
    match parseOperands ((trimBlanks (stripComment text)).dropWhile (fun c => !isBlank c)) with
    | none => none
    | some operands =>
      if (trimBlanks (stripComment text)).takeWhile (fun c => !isBlank c) = ['.', 'w', 'o', 'r', 'd'] then
        match operands with
        | [w] => some (some (.word w))
        | _ => none
      else
        some (some (.command
          (String.ofList ((trimBlanks (stripComment text)).takeWhile (fun c => !isBlank c))) operands))

/-- The words of a line of text. -/
def assembleText (text : List Char) : Option (List Word) :=
  match parseLine text with
  | none => none
  | some none => some []
  | some (some l) => assembleLine l

/-- The words of a program, its lines one after another (R79); refused as a whole if a line is. -/
def assembleLines : List (List Char) → Option (List Word)
  | [] => some []
  | l :: ls =>
    match assembleText l, assembleLines ls with
    | some ws, some rest => some (ws ++ rest)
    | _, _ => none

/-- The words of a program text. -/
def assemble (text : List Char) : Option (List Word) := assembleLines (splitAt '\n' text)

end Sys2Proof.Machine
end

