-- ==== Sys2Proof/Machine/Trace.lean ====
section
/-! DEFINITION. What can be said of the port trace: the fragments and the closed form of SHOW (41_protocol_engine.md R120
to R128), the sampled bit stream (10_state.md R37), the last level of a pin (R32) and the edges of the clock
(70_reset_and_hazards.md R197). No step reads any of it. -/

namespace Sys2Proof.Machine

/-- `PULSE` (R120). -/
def pulse (c : Config) : List Request := [.write c.clockPin true, .write c.clockPin false]

/-- `PULSE^k` (R120). -/
def pulses (c : Config) : Nat → List Request
  | 0 => []
  | k + 1 => pulse c ++ pulses c k

/-- For the `n` lowest bits of a frame, the highest first: the data write and the clock pulse (R122). -/
def bitsTrace (c : Config) (f : FrameWord) : Nat → List Request
  | 0 => []
  | n + 1 => .write c.dataPin (f.getLsbD n) :: (pulse c ++ bitsTrace c f n)

/-- `FRAME(v)` (R122). -/
def frameTrace (c : Config) (v : Pixel) : List Request := bitsTrace c (frame v) Config.frameBits

/-- `PRE` (R124). -/
def preambleTrace (c : Config) : List Request :=
  .write c.dataPin false :: pulses c c.preamblePulses.toNat

/-- `BLANK` (R123). -/
def blankTrace (c : Config) : List Request :=
  .write c.dataPin false :: pulses c c.blankPulses.toNat

/-- `FRAME(v0) ++ FRAME(v1) ++ …`, in index order (R126, R142). -/
def framesTrace (c : Config) : List Pixel → List Request
  | [] => []
  | v :: vs => frameTrace c v ++ framesTrace c vs

/-- `T_show` (R126). -/
def showTrace (c : Config) (vs : List Pixel) : List Request :=
  preambleTrace c ++ framesTrace c vs ++ blankTrace c ++ [.sleep c.settleMs]

/-- The elements of the buffer in index order (R24). -/
def bufferValues (s : State) : List Pixel := (List.range s.N.toNat).map (memLookup s.buf)

/-- The number of phase steps, and of requests, of one SHOW (R127, R139). -/
def showLength (c : Config) (n : Nat) : Nat :=
  3 + 2 * c.preamblePulses.toNat + 2 * c.blankPulses.toNat + 75 * n

/-- The sampled bit stream (R37): the data level at each `W(C, 1)`, from the data level `d` before the segment. -/
def sampledBits (c : Config) : Level → List Request → List Level
  | _, [] => []
  | d, .write p b :: t =>
    if p = c.dataPin then sampledBits c (levelOf b) t
    else if p = c.clockPin ∧ b = true then d :: sampledBits c d t
    else sampledBits c d t
  | d, .setup :: t => sampledBits c d t
  | d, .cfg _ :: t => sampledBits c d t
  | d, .sleep _ :: t => sampledBits c d t

/-- The 25 bits of a frame, the marker first (R128: `frame(v)[24..0]`). -/
def frameLevels (v : Pixel) : List Level :=
  (List.range Config.frameBits).map fun i => levelOf ((frame v).getLsbD (24 - i))

/-- The last level written to a pin (R32), from the level before the segment. -/
def lastLevel (p : PinId) : Level → List Request → Level
  | l, [] => l
  | l, .write q b :: t => lastLevel p (if q = p then levelOf b else l) t
  | l, .setup :: t => lastLevel p l t
  | l, .cfg _ :: t => lastLevel p l t
  | l, .sleep _ :: t => lastLevel p l t

/-- What a `W(C, 1)` does to the clock line, as far as the block can know (R197). -/
inductive Edge where
  /-- The clock was low: a rising edge. -/
  | rising
  /-- The clock was high already: no edge. -/
  | noEdge
  /-- The clock had not been written since reset: the bit is possibly not latched. -/
  | unknown
  deriving DecidableEq, Repr

/-- The edge a high write makes from a level. -/
def edgeFrom : Level → Edge
  | .low => .rising
  | .high => .noEdge
  | .x => .unknown

/-- The edges of the `W(C, 1)` requests of a segment, from the clock level before it (R120, R197). -/
def clockEdges (c : Config) : Level → List Request → List Edge
  | _, [] => []
  | l, .write p b :: t =>
    if p = c.clockPin then
      (if b = true then edgeFrom l :: clockEdges c .high t else clockEdges c .low t)
    else clockEdges c l t
  | l, .setup :: t => clockEdges c l t
  | l, .cfg _ :: t => clockEdges c l t
  | l, .sleep _ :: t => clockEdges c l t

/-- The number of writes to a pin in a segment (R201). -/
def countWrites (p : PinId) : List Request → Nat
  | [] => 0
  | .write q _ :: t => (if q = p then 1 else 0) + countWrites p t
  | .setup :: t => countWrites p t
  | .cfg _ :: t => countWrites p t
  | .sleep _ :: t => countWrites p t

end Sys2Proof.Machine
end

