-- ==== Sys2Proof/Safety.lean ====
section
/-! DEFINITION. What counts as a safe state and run, in the terms the statements use: the invariant of the block, the
frames of a command, the error a command reports, the end of a run. -/

namespace Sys2Proof.Machine

/-! ### The invariant -/

/-- R27: which phase goes with which mode. -/
def phaseFits : Phase → Mode → Bool
  | .noPhase, .uninit => true
  | .noPhase, .idle => true
  | .noPhase, _ => false
  | .iSetup, m => decide (m = .initializing)
  | .iCfgD, m => decide (m = .initializing)
  | .iCfgC, m => decide (m = .initializing)
  | .tDlow, m => decide (m = .tx)
  | .tPreHi, m => decide (m = .tx)
  | .tPreLo, m => decide (m = .tx)
  | .tBitD, m => decide (m = .tx)
  | .tBitHi, m => decide (m = .tx)
  | .tBitLo, m => decide (m = .tx)
  | .tBlkDlow, m => decide (m = .tx)
  | .tBlkHi, m => decide (m = .tx)
  | .tBlkLo, m => decide (m = .tx)
  | .tSettle, m => decide (m = .tx)

/-- R24, R50, R51: the buffer is in canonical form; it exists only in IDLE and TX, and holds indices below `N`. -/
def bufferFits (s : State) : Bool :=
  Memory.wf s.buf &&
    (if s.initialized then s.buf.all (fun c => decide (c.1 < s.N.toNat)) else decide (s.buf = []))

/-- R51, R91: no more than `N_MAX` elements, now or after the INIT in progress. -/
def countFits (s : State) : Bool :=
  (!s.initialized || decide (s.N ≤ s.cfg.nMax)) &&
    (!decide (s.mode = .initializing) || decide (s.pendCount ≤ s.cfg.nMax))

/-- R28 to R31: the counters within their runs, and the marker in the frame register. -/
def countersFit (s : State) : Bool :=
  match s.phase with
  | .tPreHi => decide (s.pulseCnt < s.cfg.preamblePulses)
  | .tPreLo => decide (s.pulseCnt < s.cfg.preamblePulses)
  | .tBlkHi => decide (s.pulseCnt < s.cfg.blankPulses)
  | .tBlkLo => decide (s.pulseCnt < s.cfg.blankPulses)
  | .tBitD => decide (s.pixIdx < s.N) && decide (s.bitIdx ≤ 24#5) &&
      (decide (s.bitIdx = 24#5) || s.shreg.getLsbD 24)
  | .tBitHi => decide (s.pixIdx < s.N) && decide (s.bitIdx ≤ 24#5) && s.shreg.getLsbD 24
  | .tBitLo => decide (s.pixIdx < s.N) && decide (s.bitIdx ≤ 24#5) && s.shreg.getLsbD 24
  | .noPhase => true
  | .iSetup => true
  | .iCfgD => true
  | .iCfgC => true
  | .tDlow => true
  | .tBlkDlow => true
  | .tSettle => true

/-- R32, R120, R123, R124, R132: the data level the phase has established. -/
def dataLevelFits (s : State) : Bool :=
  match s.phase with
  | .tPreHi => decide (s.dataLvl = .low)
  | .tPreLo => decide (s.dataLvl = .low)
  | .tBlkHi => decide (s.dataLvl = .low)
  | .tBlkLo => decide (s.dataLvl = .low)
  | .tSettle => decide (s.dataLvl = .low)
  | .tBitHi => decide (s.dataLvl = levelOf (s.shreg.getLsbD s.bitIdx.toNat))
  | .tBitLo => decide (s.dataLvl = levelOf (s.shreg.getLsbD s.bitIdx.toNat))
  | .noPhase => true
  | .iSetup => true
  | .iCfgD => true
  | .iCfgC => true
  | .tDlow => true
  | .tBitD => true
  | .tBlkDlow => true

/-- R120: the clock is high exactly between the two halves of a pulse. -/
def clockLevelFits (s : State) : Bool :=
  match s.phase with
  | .tPreLo => decide (s.clkLvl = .high)
  | .tBitLo => decide (s.clkLvl = .high)
  | .tBlkLo => decide (s.clkLvl = .high)
  | .noPhase => decide (s.clkLvl ≠ .high)
  | .iSetup => decide (s.clkLvl ≠ .high)
  | .iCfgD => decide (s.clkLvl ≠ .high)
  | .iCfgC => decide (s.clkLvl ≠ .high)
  | .tDlow => decide (s.clkLvl ≠ .high)
  | .tPreHi => decide (s.clkLvl ≠ .high)
  | .tBitD => decide (s.clkLvl ≠ .high)
  | .tBitHi => decide (s.clkLvl ≠ .high)
  | .tBlkDlow => decide (s.clkLvl ≠ .high)
  | .tBlkHi => decide (s.clkLvl ≠ .high)
  | .tSettle => decide (s.clkLvl ≠ .high)

/-- R32: both levels are X until the first SHOW, so always in UNINIT and INITIALIZING. -/
def linesUnwritten (s : State) : Bool :=
  s.initialized || (decide (s.dataLvl = .x) && decide (s.clkLvl = .x))

/-- The invariant of the block. -/
abbrev Inv (s : State) : Prop :=
  phaseFits s.phase s.mode = true ∧ bufferFits s = true ∧ countFits s = true ∧ countersFit s = true ∧
    dataLevelFits s = true ∧ clockLevelFits s = true ∧ linesUnwritten s = true

/-- R32: `data_lvl` and `clk_lvl` are the last levels of the trace, X where it has none. -/
abbrev LevelsMatchTrace (s : State) : Prop :=
  s.dataLvl = lastLevel s.cfg.dataPin .x s.trace ∧ s.clkLvl = lastLevel s.cfg.clockPin .x s.trace

/-! ### Frames -/

/-- Every field but `buf`, `status` and the response lists is the same. -/
abbrev SameButBufferAndResult (s s' : State) : Prop :=
  s'.cfg = s.cfg ∧ s'.mode = s.mode ∧ s'.N = s.N ∧ s'.phase = s.phase ∧ s'.pendCount = s.pendCount ∧
    s'.pulseCnt = s.pulseCnt ∧ s'.pixIdx = s.pixIdx ∧ s'.bitIdx = s.bitIdx ∧ s'.shreg = s.shreg ∧
    s'.dataLvl = s.dataLvl ∧ s'.clkLvl = s.clkLvl ∧ s'.cmd0 = s.cmd0 ∧ s'.cmd1 = s.cmd1 ∧
    s'.trace = s.trace ∧ s'.port = s.port ∧ s'.owner = s.owner ∧ s'.turns = s.turns

/-- Exactly one response more, on port `p`, and its code in `status`. -/
abbrev Responded (p : Port) (code : ResultCode) (data : Option Word) (s s' : State) : Prop :=
  s'.status = code ∧ s'.responses p = s.responses p ++ [{ status := code, data := data }] ∧
    ∀ q, q ≠ p → s'.responses q = s.responses q

/-- Every field but the waiting words, the noted port and the turns is the same. -/
abbrev SameButInput (s s' : State) : Prop :=
  s'.cfg = s.cfg ∧ s'.mode = s.mode ∧ s'.N = s.N ∧ s'.buf = s.buf ∧ s'.status = s.status ∧ s'.phase = s.phase ∧
    s'.pendCount = s.pendCount ∧ s'.pulseCnt = s.pulseCnt ∧ s'.pixIdx = s.pixIdx ∧ s'.bitIdx = s.bitIdx ∧
    s'.shreg = s.shreg ∧ s'.dataLvl = s.dataLvl ∧ s'.clkLvl = s.clkLvl ∧ s'.rsp0 = s.rsp0 ∧ s'.rsp1 = s.rsp1 ∧
    s'.trace = s.trace ∧ s'.owner = s.owner

/-- The next step is the accept step at a port that takes commands (R40, R41 b): the next turn names the port, or no turn is
listed and the model's own order gives it (log entry 2). -/
abbrev AcceptsAt (s : State) (p : Port) : Prop :=
  s.portPresent p = true ∧ s.portTakes p = true ∧
    (s.turns.head? = some (.accept p) ∨ s.turns = [] ∧ (p = .h1 → s.commandReady .h0 = false))

/-! ### The error a command reports -/

/-- R160, R162: whether a code's cause is present for a command at its accept step. -/
def errorApplies (i : Instr) (s : State) : ResultCode → Bool
  | .busy =>
    match i with
    | .init _ => s.busy
    | .showGrid => s.busy
    | .setpx _ _ => false
    | .setrgb _ _ _ _ => false
    | .clear => false
    | .getpx _ => false
  | .notInitialized =>
    match i with
    | .init _ => false
    | .setpx _ _ => decide (s.mode = .uninit ∨ s.mode = .initializing)
    | .setrgb _ _ _ _ => decide (s.mode = .uninit ∨ s.mode = .initializing)
    | .clear => decide (s.mode = .uninit ∨ s.mode = .initializing)
    | .showGrid => decide (s.mode = .uninit ∨ s.mode = .initializing)
    | .getpx _ => decide (s.mode = .uninit ∨ s.mode = .initializing)
  | .alreadyInitialized =>
    match i with
    | .init _ => decide (s.mode = .idle)
    | .setpx _ _ => false
    | .setrgb _ _ _ _ => false
    | .clear => false
    | .showGrid => false
    | .getpx _ => false
  | .countTooLarge =>
    match i with
    | .init count => decide (s.cfg.nMax < count)
    | .setpx _ _ => false
    | .setrgb _ _ _ _ => false
    | .clear => false
    | .showGrid => false
    | .getpx _ => false
  | .outOfRange =>
    match i with
    | .init _ => false
    | .setpx index _ => decide (s.N ≤ index)
    | .setrgb index _ _ _ => decide (s.N ≤ index)
    | .clear => false
    | .showGrid => false
    | .getpx index => decide (s.N ≤ index)
  | .ok => false
  | .initFailed => false
  | .badCommand => false

/-- R162's order of the codes that an accept step of a decoded command can report. -/
def errorPriority : List ResultCode :=
  [.busy, .notInitialized, .alreadyInitialized, .countTooLarge, .outOfRange]

/-- The first code of R162's order whose cause is present. -/
def reportedError (i : Instr) (s : State) : Option ResultCode :=
  errorPriority.find? (errorApplies i s)

/-! ### What is never observed -/

/-- Two states that differ only in elements no rule reads before it writes them (R39, V3): `N` outside IDLE and TX,
`pend_count` outside INITIALIZING, the counters and the frame register outside the phases they serve. -/
abbrev SameButUnspecified (s t : State) : Prop :=
  t = { s with N := t.N, pendCount := t.pendCount, pulseCnt := t.pulseCnt, pixIdx := t.pixIdx,
               bitIdx := t.bitIdx, shreg := t.shreg } ∧
    (s.initialized = true → t.N = s.N) ∧
    (s.mode = .initializing → t.pendCount = s.pendCount) ∧
    (s.phase ∈ [Phase.tPreHi, .tPreLo, .tBlkHi, .tBlkLo] → t.pulseCnt = s.pulseCnt) ∧
    (s.phase ∈ [Phase.tBitD, .tBitHi, .tBitLo] →
      t.pixIdx = s.pixIdx ∧ t.bitIdx = s.bitIdx ∧
        (s.phase = .tBitD ∧ s.bitIdx = 24#5 ∨ t.shreg = s.shreg))

/-! ### Runs -/

/-- The index and the value of the element the next step loads into the frame register, where it is the step that loads one
(R31, R132). -/
def loadsElement (s : State) : Option (Word × Pixel) :=
  match s.turns with
  | .take _ :: _ =>
    if s.phase = .tBitD ∧ s.bitIdx = 24#5 then some (s.pixIdx, memLookup s.buf s.pixIdx.toNat) else none
  | _ => none

/-- The loads of the next `n` steps, in order: index and value, `v0, v1, …` of R126. -/
def loads : Nat → State → List (Word × Pixel)
  | 0, _ => []
  | n + 1, s =>
    (loadsElement s).toList ++
      match step s with
      | .next s' => loads n s'
      | .fault _ => []
      | .refused _ => []

/-- R202: a run is ended. -/
abbrev Ended (s : State) : Prop :=
  s.cmd0 = [] ∧ s.cmd1 = [] ∧ (s.mode = .uninit ∨ s.mode = .idle) ∧ s.phase = .noPhase

/-- A turn that is not the collaborator's taking and not a reset: a host's word or an accept step. -/
def Turn.isHostSide : Turn → Bool
  | .host _ _ => true
  | .accept _ => true
  | .take _ => false
  | .reset => false

/-- A turn that takes the outstanding request. -/
def Turn.isTake : Turn → Bool
  | .take _ => true
  | .host _ _ => false
  | .accept _ => false
  | .reset => false

/-- A turn of an agent that the instance has (R20, R35). -/
def Turn.present (c : Config) : Turn → Bool
  | .host p _ => decide (p = .h0) || c.concurrentHost
  | .accept p => decide (p = .h0) || c.concurrentHost
  | .take _ => true
  | .reset => true

end Sys2Proof.Machine
end

