-- ==== Sys2Proof/Certificates/Slice0/Obligations.lean ====
section
/-! DEFINITION. The statements for the provers. Each docstring names the rule of spec/ it formalises. A statement about
`exec` is about the accept step of a command (10_state.md R41 b), one about `step` or `steps` about the moves of the agents.
The statements about runs hold whatever the input list `turns` holds beyond the moves they name. -/

open Sys2Proof Sys2Proof.Machine

/-! ### Encoding -/

/-- Decoding an encoded command gives it back, at every value of every operand, and consumes exactly its words
(30_encoding.md R70 to R75). -/
def Obligations.EncodedCommandDecodes : Prop :=
  ∀ (i : Instr) (rest : List Word), decode (encode i ++ rest) = .command i rest

/-- A command has one encoding: what decodes to it begins with exactly its words (R74: "one exact 32-bit pattern"). -/
def Obligations.DecodedCommandIsItsEncoding : Prop :=
  ∀ (words : List Word) (i : Instr) (rest : List Word),
    decode words = .command i rest → words = encode i ++ rest

/-- R74: the opcode map, the exact headers, the reserved opcodes. -/
def Obligations.HeaderSelectsCommandExactly : Prop :=
  (∀ (header : Word) (words : List Word), 4 ≤ words.length →
    ((∃ i rest, decode (header :: words) = .command i rest) ↔
      reservedField header = 0#24 ∧ opcodeField header ∈ ([0x01#8, 0x02#8, 0x03#8, 0x04#8, 0x05#8, 0x06#8] : List Byte)) ∧
    ((∃ i rest, decode (header :: words) = .command i rest) ↔
      header ∈ ([0x00000001#32, 0x00000002#32, 0x00000003#32, 0x00000004#32, 0x00000005#32, 0x00000006#32] : List Word))) ∧
  (∀ a b c d (rest : List Word),
    decode (0x00000001#32 :: a :: rest) = .command (.init a) rest ∧
    decode (0x00000002#32 :: a :: b :: rest) = .command (.setpx a b) rest ∧
    decode (0x00000003#32 :: a :: b :: c :: d :: rest) = .command (.setrgb a b c d) rest ∧
    decode (0x00000004#32 :: rest) = .command .clear rest ∧
    decode (0x00000005#32 :: rest) = .command .showGrid rest ∧
    decode (0x00000006#32 :: a :: rest) = .command (.getpx a) rest) ∧
  (∀ (header : Word) (words : List Word),
    opcodeField header ∉ ([0x01#8, 0x02#8, 0x03#8, 0x04#8, 0x05#8, 0x06#8] : List Byte) →
      decode (header :: words) = .bad .reservedOpcode words)

/-- R71: the length is fixed by `OPC` alone: the decoder waits exactly while fewer words are there, and consumes exactly
so many, whether the command is good or bad; a reserved `OPC` is one word. -/
def Obligations.LengthFixedByOpcodeAlone : Prop :=
  (∀ (header : Word) (words : List Word),
    (decode (header :: words) = .incomplete ↔
      (header :: words).length < commandWords (opcodeField header)) ∧
    (∀ i rest, decode (header :: words) = .command i rest →
      rest = (header :: words).drop (commandWords (opcodeField header))) ∧
    (∀ why rest, decode (header :: words) = .bad why rest →
      rest = (header :: words).drop (commandWords (opcodeField header)))) ∧
  commandWords 0x01#8 = 2 ∧ commandWords 0x02#8 = 3 ∧ commandWords 0x03#8 = 5 ∧ commandWords 0x04#8 = 1 ∧
  commandWords 0x05#8 = 1 ∧ commandWords 0x06#8 = 2 ∧
  ∀ opc : Byte, opc ∉ ([0x01#8, 0x02#8, 0x03#8, 0x04#8, 0x05#8, 0x06#8] : List Byte) → commandWords opc = 1

/-- The worked words of 95_test_vectors.md 2.1 decode as that table says. -/
def Obligations.SpecVectorsDecode : Prop :=
  decode [0x00000001, 0x00000002] = .command (.init 2) [] ∧
  decode [0x00000002, 0x00000000, 0xFF123456] = .command (.setpx 0 0xFF123456) [] ∧
  decode [0x00000003, 0x00000001, 0x0000012C, 0x00000000, 0x00000007] = .command (.setrgb 1 300 0 7) [] ∧
  decode [0x00000004] = .command .clear [] ∧
  decode [0x00000005] = .command .showGrid [] ∧
  decode [0x00000006, 0x00000003] = .command (.getpx 3) [] ∧
  decode [0x00000000] = .bad .reservedOpcode [] ∧
  decode [0x00000007] = .bad .reservedOpcode [] ∧
  decode [0x000000FF] = .bad .reservedOpcode [] ∧
  decode [0x00000105] = .bad .reservedBits [] ∧
  decode [0x80000002, 0x00000000, 0x00000001] = .bad .reservedBits [] ∧
  decode [0x00000102] = .incomplete

/-- R79: a line whose mnemonic is upper case and known, with the right number of operands that each fit a word, assembles
to the header and the operands in written order; any other command line is refused; `.word w` is one raw word. -/
def Obligations.AssemblerEncodesCommands : Prop :=
  (∀ i : Instr, assembleLine (.command i.mnemonic (i.operands.map BitVec.toNat)) = some (encode i)) ∧
  (∀ (m : String) (operands : List Nat),
    (operandCount m ≠ some operands.length ∨ ∃ n ∈ operands, 2 ^ 32 ≤ n) →
      assembleLine (.command m operands) = none) ∧
  (∀ (m : String) (operands : List Nat) (words : List Word),
    assembleLine (.command m operands) = some words →
      ∃ i : Instr, m = i.mnemonic ∧ operands = i.operands.map BitVec.toNat ∧ words = encode i) ∧
  (∀ w : Nat, assembleLine (.word w) = if w < 2 ^ 32 then some [BitVec.ofNat 32 w] else none)

/-! ### A step runs the decoded command -/

/-- R41, R75, R90: an accept turn, and the sequencer's own step where no turn is listed, run exactly the decoded command on
the state with its words consumed and its port noted; consuming changes nothing but the words on that port and the noted port.
The case without a turn is the model's choice (log entry 2), and the noted port is the model's own field (log entry 6). -/
def Obligations.StepRunsTheDecodedCommand : Prop :=
  (∀ (s : State) (p : Port) (i : Instr) (rest : List Word) (ts : List Turn),
    s.turns = .accept p :: ts → s.portPresent p = true → s.portTakes p = true →
    decode (s.words p) = .command i rest →
      step s = exec i (consume p rest { s with turns := ts })) ∧
  (∀ (s : State) (i : Instr) (rest : List Word),
    s.turns = [] → s.busy = false → decode s.cmd0 = .command i rest →
      step s = exec i (consume .h0 rest s)) ∧
  (∀ (s : State) (i : Instr) (rest : List Word),
    s.turns = [] → s.cfg.concurrentHost = true → (s.busy = true ∨ decode s.cmd0 = .incomplete) →
    decode s.cmd1 = .command i rest →
      step s = exec i (consume .h1 rest s)) ∧
  (∀ (s : State) (p : Port) (rest : List Word),
    (consume p rest s).words p = rest ∧ (consume p rest s).port = p ∧
    (∀ q, q ≠ p → (consume p rest s).words q = s.words q) ∧ (consume p rest s).turns = s.turns ∧
    SameButInput s (consume p rest s))

/-- R35, R41 a: a host's turn puts its word after the words already waiting on the port, and changes nothing else. At a port
the instance does not have the turn is refused (log entry 10), the model's choice, as is a turn for each word (log entry 1). -/
def Obligations.HostTurnAppendsItsWord : Prop :=
  ∀ (s : State) (p : Port) (w : Word) (ts : List Turn), s.turns = .host p w :: ts →
    (s.portPresent p = true → ∃ s', step s = .next s' ∧ s'.words p = s.words p ++ [w] ∧
      (∀ q, q ≠ p → s'.words q = s.words q) ∧ s'.port = s.port ∧ s'.turns = ts ∧ SameButInput s s') ∧
    (s.portPresent p = false → step s = .refused .portAbsent)

/-- R75: a command whose words are not all there waits: an accept turn at its port leaves the words and everything else, and
so does a step without a turn where neither port has a whole command to take. That the turn passes is log entry 11, that the
machine then steps to itself log entry 12, both the model's choice. -/
def Obligations.IncompleteCommandWaits : Prop :=
  (∀ (s : State) (p : Port) (ts : List Turn), s.turns = .accept p :: ts → s.portPresent p = true →
    decode (s.words p) = .incomplete → step s = .next { s with turns := ts }) ∧
  (∀ s : State, s.turns = [] → (s.busy = true ∨ decode s.cmd0 = .incomplete) →
    (s.cfg.concurrentHost = false ∨ decode s.cmd1 = .incomplete) → step s = .next s)

/-- Log entries 13 and 14: the command `withFetchWord` places is the one the very next step runs, from any state; an INIT or
SHOW in progress is ended for it. This is the model's convention, not a rule of the spec. -/
def Obligations.PlacedCommandRunsNext : Prop :=
  ∀ (s : State) (nbits w : Nat) (i : Instr), decodeTableWord nbits w = some i →
    step (s.withFetchWord nbits w) = exec i { freeSequencer s with port := .h0 }

/-- R76: an illegal header, once its words are there, is answered BAD_COMMAND (0x05): the words of R75 are consumed and
nothing else changes. -/
def Obligations.BadCommandOnlyAnswers : Prop :=
  codeByte .badCommand = 0x05#8 ∧
  ∀ (s : State) (p : Port) (ts : List Turn) (header : Word) (words : List Word),
    s.turns = .accept p :: ts → s.portPresent p = true → s.portTakes p = true →
    s.words p = header :: words →
    (opcodeField header ∉ ([0x01#8, 0x02#8, 0x03#8, 0x04#8, 0x05#8, 0x06#8] : List Byte) ∨ reservedField header ≠ 0#24) →
    commandWords (opcodeField header) ≤ (header :: words).length →
      ∃ s', step s = .next s' ∧ Responded p .badCommand none s s' ∧ s'.buf = s.buf ∧
        SameButBufferAndResult
          (consume p ((header :: words).drop (commandWords (opcodeField header))) { s with turns := ts }) s'

/-! ### Operands and frames -/

/-- R73: COLOR is masked, and each channel clamped, as numbers. -/
def Obligations.OperandsMaskedAndClamped : Prop :=
  (∀ color : Word, (colorPixel color).setWidth 32 = color &&& 0x00FFFFFF#32) ∧
  (∀ x : Word, (clamp8 x).toNat = min x.toNat 255)

/-- R53: the three channels at their places, and the combined form. -/
def Obligations.ElementHoldsItsChannels : Prop :=
  ∀ r g b : Byte,
    (packRgb r g b).extractLsb' 16 8 = r ∧ (packRgb r g b).extractLsb' 8 8 = g ∧
    (packRgb r g b).extractLsb' 0 8 = b ∧
    (packRgb r g b).toNat = b.toNat + g.toNat * 2 ^ 8 + r.toNat * 2 ^ 16 ∧
    packRgb r g b = b.setWidth 24 ||| (g.setWidth 24 <<< 8) ||| (r.setWidth 24 <<< 16)

/-- R121: the marker 1, then red, green and blue, for every value, 0 too. -/
def Obligations.FrameIsMarkerThenColour : Prop :=
  ∀ v : Pixel,
    frame v = (1#25 <<< 24 ||| v.setWidth 25) ∧ (frame v).getLsbD 24 = true ∧
    (frame v).toNat = 2 ^ 24 + v.toNat ∧
    (frame v).extractLsb' 16 8 = v.extractLsb' 16 8 ∧ (frame v).extractLsb' 8 8 = v.extractLsb' 8 8 ∧
    (frame v).extractLsb' 0 8 = v.extractLsb' 0 8

/-! ### INIT -/

/-- R91: INIT's words and its accept step: each error, and the admission, which sends no request and no response and changes
nothing but the three elements of R91. That its port is kept in `owner` is the model's own field (log entry 6, DEDUCED), no part
of R91. -/
def Obligations.InitAcceptStep : Prop :=
  ∀ (s : State) (count : Word),
    encode (.init count) = [0x00000001#32, count] ∧
    (s.mode = .initializing ∨ s.mode = .tx → exec (.init count) s = .next (raiseError .busy s)) ∧
    (s.mode = .idle → exec (.init count) s = .next (raiseError .alreadyInitialized s)) ∧
    (s.mode = .uninit → s.cfg.nMax < count → exec (.init count) s = .next (raiseError .countTooLarge s)) ∧
    (s.mode = .uninit → count ≤ s.cfg.nMax →
      exec (.init count) s =
        .next { s with pendCount := count, mode := .initializing, phase := .iSetup, owner := s.port })

/-- R92: the three phase steps of INIT with each answer: the one request, the next phase on ok, the whole effect of success,
and `INIT_FAIL` (R93), with mode UNINIT and no buffer or count written, on fail. -/
def Obligations.InitPhaseSteps : Prop :=
  ∀ (s : State) (ts : List Turn),
    (s.phase = .iSetup → s.turns = .take .ok :: ts →
      step s = .next { s with turns := ts, trace := s.trace ++ [.setup], phase := .iCfgD }) ∧
    (s.phase = .iCfgD → s.turns = .take .ok :: ts →
      step s = .next { s with turns := ts, trace := s.trace ++ [.cfg s.cfg.dataPin], phase := .iCfgC }) ∧
    (s.phase = .iCfgC → s.turns = .take .ok :: ts →
      ∃ s', step s = .next s' ∧ Responded s.owner .ok none s s' ∧ (∀ k, memLookup s'.buf k = 0#24) ∧
        SameButBufferAndResult
          { s with turns := ts, trace := s.trace ++ [.cfg s.cfg.clockPin], N := s.pendCount,
                   mode := .idle, phase := .noPhase } s') ∧
    (∀ e, (s.phase = .iSetup ∧ e = Request.setup ∨ s.phase = .iCfgD ∧ e = .cfg s.cfg.dataPin ∨
        s.phase = .iCfgC ∧ e = .cfg s.cfg.clockPin) → s.turns = .take .fail :: ts →
      ∃ s', step s = .next s' ∧ Responded s.owner .initFailed none s s' ∧ s'.buf = s.buf ∧
        SameButBufferAndResult
          { s with turns := ts, trace := s.trace ++ [e], mode := .uninit, phase := .noPhase } s')

/-- R92 as a whole: an admitted INIT whose three requests are taken and answered ok ends IDLE with `N = COUNT`, every element
0, response OK on its own port, and exactly `Setup, Cfg(DATA_PIN), Cfg(CLOCK_PIN)` more in the trace. -/
def Obligations.InitRunCompletes : Prop :=
  ∀ (s : State) (count : Word) (ts : List Turn),
    s.mode = .uninit → count ≤ s.cfg.nMax →
    s.turns = .take .ok :: .take .ok :: .take .ok :: ts →
      ∃ s₁ s', exec (.init count) s = .next s₁ ∧ steps 3 s₁ = .next s' ∧
        s'.trace = s.trace ++ [.setup, .cfg s.cfg.dataPin, .cfg s.cfg.clockPin] ∧
        s'.mode = .idle ∧ s'.phase = .noPhase ∧ s'.N = count ∧ (∀ k, memLookup s'.buf k = 0#24) ∧
        Responded s.port .ok none s s' ∧ s'.dataLvl = s.dataLvl ∧ s'.clkLvl = s.clkLvl ∧
        s'.pulseCnt = s.pulseCnt ∧ s'.pixIdx = s.pixIdx ∧ s'.bitIdx = s.bitIdx ∧ s'.shreg = s.shreg ∧
        s'.cmd0 = s.cmd0 ∧ s'.cmd1 = s.cmd1 ∧ s'.cfg = s.cfg ∧ s'.port = s.port ∧
        s'.owner = s.port ∧ s'.pendCount = count ∧ s'.turns = ts

/-- R93: an admitted INIT whose request number `oks` (0, 1 or 2) is answered fail, after `oks` answers ok, ends UNINIT with
response INIT_FAILED, with exactly the requests up to that one in the trace, no count and no buffer; then every other command
is NOT_INITIALIZED and INIT may be retried. -/
def Obligations.InitFailureRunEndsUninit : Prop :=
  ∀ (s : State) (count : Word) (oks : Nat) (ts : List Turn),
    s.mode = .uninit → count ≤ s.cfg.nMax → oks ≤ 2 →
    s.turns = List.replicate oks (.take .ok) ++ .take .fail :: ts →
      ∃ s₁ s', exec (.init count) s = .next s₁ ∧ steps (oks + 1) s₁ = .next s' ∧
        s'.trace = s.trace ++ [.setup, .cfg s.cfg.dataPin, .cfg s.cfg.clockPin].take (oks + 1) ∧
        s'.mode = .uninit ∧ s'.phase = .noPhase ∧ Responded s.port .initFailed none s s' ∧
        codeByte s'.status = 0x01#8 ∧ s'.N = s.N ∧ s'.buf = s.buf ∧ (∀ k, memRead k s' = none) ∧
        s'.dataLvl = s.dataLvl ∧ s'.clkLvl = s.clkLvl ∧ s'.turns = ts ∧
        (∀ i, (∀ c, i ≠ .init c) → exec i s' = .next (raiseError .notInitialized s')) ∧
        ∀ c, c ≤ s.cfg.nMax →
          ∃ s₂, exec (.init c) s' = .next s₂ ∧ s₂.mode = .initializing ∧ s₂.phase = .iSetup ∧ s₂.pendCount = c

/-! ### The buffer commands -/

/-- R94: SETPX, its words: NOT_INITIALIZED, OUT_OF_RANGE, or exactly element INDEX becomes `COLOR & 0x00FFFFFF`. -/
def Obligations.SetpxStoresMaskedColor : Prop :=
  ∀ (s : State) (index color : Word), Memory.wf s.buf = true →
    encode (.setpx index color) = [0x00000002#32, index, color] ∧
    (s.mode = .uninit ∨ s.mode = .initializing →
      exec (.setpx index color) s = .next (raiseError .notInitialized s)) ∧
    (s.mode = .idle ∨ s.mode = .tx → s.N ≤ index →
      exec (.setpx index color) s = .next (raiseError .outOfRange s)) ∧
    (s.mode = .idle ∨ s.mode = .tx → index < s.N →
      ∃ s' v, exec (.setpx index color) s = .next s' ∧ memRead index s' = some v ∧
        v.setWidth 32 = color &&& 0x00FFFFFF#32 ∧
        (∀ k, k ≠ index.toNat → memLookup s'.buf k = memLookup s.buf k) ∧
        Responded s.port .ok none s s' ∧ SameButBufferAndResult s s')

/-- R95: SETRGB, its words: the same checks, and each channel is clamped to 255 and packed red, green, blue. -/
def Obligations.SetrgbStoresClampedChannels : Prop :=
  ∀ (s : State) (index r g b : Word), Memory.wf s.buf = true →
    encode (.setrgb index r g b) = [0x00000003#32, index, r, g, b] ∧
    (s.mode = .uninit ∨ s.mode = .initializing →
      exec (.setrgb index r g b) s = .next (raiseError .notInitialized s)) ∧
    (s.mode = .idle ∨ s.mode = .tx → s.N ≤ index →
      exec (.setrgb index r g b) s = .next (raiseError .outOfRange s)) ∧
    (s.mode = .idle ∨ s.mode = .tx → index < s.N →
      ∃ s' v, exec (.setrgb index r g b) s = .next s' ∧ memRead index s' = some v ∧
        (v.extractLsb' 16 8).toNat = min r.toNat 255 ∧ (v.extractLsb' 8 8).toNat = min g.toNat 255 ∧
        (v.extractLsb' 0 8).toNat = min b.toNat 255 ∧
        (∀ k, k ≠ index.toNat → memLookup s'.buf k = memLookup s.buf k) ∧
        Responded s.port .ok none s s' ∧ SameButBufferAndResult s s')

/-- R97: CLEAR, its word: NOT_INITIALIZED, or every element reads 0, in one step, with no request. -/
def Obligations.ClearZeroesEveryElement : Prop :=
  ∀ s : State,
    encode .clear = [0x00000004#32] ∧
    (s.mode = .uninit ∨ s.mode = .initializing → exec .clear s = .next (raiseError .notInitialized s)) ∧
    (s.mode = .idle ∨ s.mode = .tx →
      ∃ s', exec .clear s = .next s' ∧ (∀ k, k < s.N → memRead k s' = some 0#24) ∧
        Responded s.port .ok none s s' ∧ SameButBufferAndResult s s')

/-- R98: GETPX, its words: the checks, or the element zero-extended in the response and nothing else changed. -/
def Obligations.GetpxReturnsElement : Prop :=
  ∀ (s : State) (index : Word),
    encode (.getpx index) = [0x00000006#32, index] ∧
    (s.mode = .uninit ∨ s.mode = .initializing →
      exec (.getpx index) s = .next (raiseError .notInitialized s)) ∧
    (s.mode = .idle ∨ s.mode = .tx → s.N ≤ index →
      exec (.getpx index) s = .next (raiseError .outOfRange s)) ∧
    (s.mode = .idle ∨ s.mode = .tx → index < s.N →
      ∃ s' v, exec (.getpx index) s = .next s' ∧ memRead index s = some v ∧
        Responded s.port .ok (some (v.setWidth 32)) s s' ∧ s'.buf = s.buf ∧ SameButBufferAndResult s s')

/-- 95_test_vectors.md E1: SETPX and then GETPX of the same index answers `(OK, color & 0x00FFFFFF)`. -/
def Obligations.SetThenGetReturnsMaskedColor : Prop :=
  ∀ (s : State) (index color : Word), Memory.wf s.buf = true →
    (s.mode = .idle ∨ s.mode = .tx) → index < s.N →
      ∃ s₁ s₂, exec (.setpx index color) s = .next s₁ ∧ exec (.getpx index) s₁ = .next s₂ ∧
        s₂.responses s.port = s.responses s.port ++
          [{ status := .ok, data := none }, { status := .ok, data := some (color &&& 0x00FFFFFF#32) }]

/-- R80, R97: CLEAR is `SETRGB k, 0, 0, 0` for every `k < N`. -/
def Obligations.ClearIsItsLoop : Prop :=
  ∀ s : State, Inv s → s.initialized = true →
    exec .clear s = .next (respondOk none
      { s with buf := (List.range s.N.toNat).foldl (fun m k => memInsert m k (channelsPixel 0#32 0#32 0#32)) s.buf })

/-- R58: SETPX, SETRGB and CLEAR done twice leave the buffer done once, as data. -/
def Obligations.BufferCommandsIdempotent : Prop :=
  ∀ (i : Instr) (s s₁ s₂ : State), Memory.wf s.buf = true →
    (∃ index color, i = .setpx index color) ∨ (∃ index r g b, i = .setrgb index r g b) ∨ i = .clear →
    exec i s = .next s₁ → exec i s₁ = .next s₂ →
      s₂.buf = s₁.buf ∧ s₂.status = s₁.status ∧ SameButBufferAndResult s₁ s₂

/-! ### Errors and responses -/

/-- R162 with the causes of R160: a decoded command reports exactly the first code that applies, and only where none
applies does it have its effect, with the response OK or, for an admitted INIT or SHOW, none yet. -/
def Obligations.FirstApplicableErrorReported : Prop :=
  ∀ (i : Instr) (s : State),
    (∀ code, reportedError i s = some code → exec i s = .next (raiseError code s)) ∧
    (reportedError i s = none → ∃ s', exec i s = .next s' ∧
      ((∃ data, Responded s.port .ok data s s') ∨
        ((∃ count, i = .init count) ∨ i = .showGrid) ∧ s'.status = s.status ∧ s'.rsp0 = s.rsp0 ∧
          s'.rsp1 = s.rsp1))

/-- R163: the outcome of each command in each mode. -/
def Obligations.CommandOutcomeByMode : Prop :=
  ∀ s : State,
    (s.mode = .uninit →
      (∀ count, count ≤ s.cfg.nMax → ∃ s', exec (.init count) s = .next s' ∧ s'.mode = .initializing ∧
        s'.phase = .iSetup ∧ s'.rsp0 = s.rsp0 ∧ s'.rsp1 = s.rsp1) ∧
      ∀ i, (∀ count, i ≠ .init count) → exec i s = .next (raiseError .notInitialized s)) ∧
    (s.mode = .initializing →
      (∀ count, exec (.init count) s = .next (raiseError .busy s)) ∧
      exec .showGrid s = .next (raiseError .busy s) ∧
      ∀ i, (∀ count, i ≠ .init count) → i ≠ .showGrid → exec i s = .next (raiseError .notInitialized s)) ∧
    (s.mode = .idle →
      (∀ count, exec (.init count) s = .next (raiseError .alreadyInitialized s)) ∧
      (∃ s', exec .showGrid s = .next s' ∧ s'.mode = .tx ∧ s'.phase = .tDlow ∧ s'.rsp0 = s.rsp0 ∧
        s'.rsp1 = s.rsp1)) ∧
    (s.mode = .tx →
      (∀ count, exec (.init count) s = .next (raiseError .busy s)) ∧
      exec .showGrid s = .next (raiseError .busy s)) ∧
    (s.mode = .idle ∨ s.mode = .tx →
      ∀ index color r g b,
        (∃ s' code, exec (.setpx index color) s = .next s' ∧ Responded s.port code none s s' ∧
          (code = .ok ↔ index < s.N) ∧ (code = .outOfRange ↔ s.N ≤ index)) ∧
        (∃ s' code, exec (.setrgb index r g b) s = .next s' ∧ Responded s.port code none s s' ∧
          (code = .ok ↔ index < s.N) ∧ (code = .outOfRange ↔ s.N ≤ index)) ∧
        (∃ s' code data, exec (.getpx index) s = .next s' ∧ Responded s.port code data s s' ∧
          (code = .ok ↔ index < s.N) ∧ (code = .outOfRange ↔ s.N ≤ index)) ∧
        (∃ s', exec .clear s = .next s' ∧ Responded s.port .ok none s s')) ∧
    (∀ p why rest, decode (s.words p) = .bad why rest →
      acceptCommand p s = .next (raiseError .badCommand (consume p rest s)))

/-- R161: a command that answers a code other than OK changes nothing but `status` (and its response); INIT's failing phase
step also `mode` and `phase`, and its one request stands in the trace. -/
def Obligations.ErrorsChangeOnlyStatus : Prop :=
  (∀ (i : Instr) (s s' : State) (code : ResultCode) (data : Option Word),
    exec i s = .next s' → Responded s.port code data s s' → code ≠ .ok →
      data = none ∧ s'.buf = s.buf ∧ SameButBufferAndResult s s') ∧
  (∀ (s s' : State) (ts : List Turn) (a : Answer) (code : ResultCode) (data : Option Word),
    s.turns = .take a :: ts → step s = .next s' → Responded s.owner code data s s' → code ≠ .ok →
      code = .initFailed ∧ data = none ∧ s'.buf = s.buf ∧ ∃ e, (e = Request.setup ∨ ∃ pin, e = .cfg pin) ∧
        SameButBufferAndResult
          { s with turns := ts, trace := s.trace ++ [e], mode := .uninit, phase := .noPhase } s')

/-- R77: the words of a response: `STATUS` in [7:0], 0 in [31:8], and a data word exactly for GETPX answered OK. -/
def Obligations.ResponseWordLayout : Prop :=
  (∀ r : Response, ∃ w, responseWords r = w :: r.data.toList ∧ w.extractLsb' 0 8 = codeByte r.status ∧
    w.extractLsb' 8 24 = 0#24) ∧
  (∀ (i : Instr) (s s' : State) (code : ResultCode) (data : Option Word),
    exec i s = .next s' → Responded s.port code data s s' →
      (data.isSome = true ↔ code = .ok ∧ ∃ index, i = .getpx index) ∧
      ∀ index, i = .getpx index → code = .ok → data = some ((memLookup s.buf index.toNat).setWidth 32))

/-- R160: the code numbers; 0x08..0xFF stand for no code. -/
def Obligations.ResultCodeNumbers : Prop :=
  codeByte .ok = 0x00#8 ∧ codeByte .initFailed = 0x01#8 ∧ codeByte .notInitialized = 0x02#8 ∧
  codeByte .alreadyInitialized = 0x03#8 ∧ codeByte .outOfRange = 0x04#8 ∧ codeByte .badCommand = 0x05#8 ∧
  codeByte .countTooLarge = 0x06#8 ∧ codeByte .busy = 0x07#8 ∧
  (∀ c, codeOfByte (codeByte c) = some c) ∧ ∀ b : Byte, 0x08#8 ≤ b → codeOfByte b = none

/-- R25: a step that is no reset either leaves `status` and the response ports alone, or sends exactly one response and
writes the same code into `status`; and no step reads `status`. -/
def Obligations.StatusFollowsEachResponse : Prop :=
  (∀ s s' : State, step s = .next s' → s.turns.head? ≠ some .reset →
    (s'.status = s.status ∧ s'.rsp0 = s.rsp0 ∧ s'.rsp1 = s.rsp1) ∨
      ∃ p code data, Responded p code data s s') ∧
  (∀ (s s' : State) (code : ResultCode), step s = .next s' →
    step { s with status := code } = .next s' ∨
      s'.status = s.status ∧ step { s with status := code } = .next { s' with status := code })

/-! ### SHOW: the phase steps -/

/-- R125: SHOW's word and its accept step, which sends no request. That its port is kept in `owner` is the model's own field
(log entry 6, DEDUCED), no part of R125. -/
def Obligations.ShowAcceptStep : Prop :=
  ∀ s : State,
    encode .showGrid = [0x00000005#32] ∧
    (s.mode = .initializing ∨ s.mode = .tx → exec .showGrid s = .next (raiseError .busy s)) ∧
    (s.mode = .uninit → exec .showGrid s = .next (raiseError .notInitialized s)) ∧
    (s.mode = .idle →
      exec .showGrid s = .next { s with mode := .tx, phase := .tDlow, owner := s.port })

/-- R129 to R131: the preamble's data-low write and the two halves of its pulses; `AFTER_PRE`. -/
def Obligations.PreamblePhaseSteps : Prop :=
  ∀ (s : State) (a : Answer) (ts : List Turn), s.turns = .take a :: ts →
    (s.phase = .tDlow → 0#16 < s.cfg.preamblePulses →
      step s = .next { s with turns := ts, trace := s.trace ++ [.write s.cfg.dataPin false], dataLvl := .low,
                              pulseCnt := 0#16, phase := .tPreHi }) ∧
    (s.phase = .tDlow → s.cfg.preamblePulses = 0#16 → 0#32 < s.N →
      step s = .next { s with turns := ts, trace := s.trace ++ [.write s.cfg.dataPin false], dataLvl := .low,
                              pulseCnt := 0#16, pixIdx := 0#32, bitIdx := 24#5, phase := .tBitD }) ∧
    (s.phase = .tDlow → s.cfg.preamblePulses = 0#16 → s.N = 0#32 →
      step s = .next { s with turns := ts, trace := s.trace ++ [.write s.cfg.dataPin false], dataLvl := .low,
                              pulseCnt := 0#16, phase := .tBlkDlow }) ∧
    (s.phase = .tPreHi →
      step s = .next { s with turns := ts, trace := s.trace ++ [.write s.cfg.clockPin true], clkLvl := .high,
                              phase := .tPreLo }) ∧
    (s.phase = .tPreLo → s.pulseCnt + 1#16 ≠ s.cfg.preamblePulses →
      step s = .next { s with turns := ts, trace := s.trace ++ [.write s.cfg.clockPin false], clkLvl := .low,
                              pulseCnt := s.pulseCnt + 1#16, phase := .tPreHi }) ∧
    (s.phase = .tPreLo → s.pulseCnt + 1#16 = s.cfg.preamblePulses → 0#32 < s.N →
      step s = .next { s with turns := ts, trace := s.trace ++ [.write s.cfg.clockPin false], clkLvl := .low,
                              pulseCnt := s.pulseCnt + 1#16, pixIdx := 0#32, bitIdx := 24#5, phase := .tBitD }) ∧
    (s.phase = .tPreLo → s.pulseCnt + 1#16 = s.cfg.preamblePulses → s.N = 0#32 →
      step s = .next { s with turns := ts, trace := s.trace ++ [.write s.cfg.clockPin false], clkLvl := .low,
                              pulseCnt := s.pulseCnt + 1#16, phase := .tBlkDlow })

/-- R132 to R134: the data write of one frame bit, which at bit 24 loads the frame of the current pixel, and the two halves
of its pulse; then the next bit, the next pixel or the blank. -/
def Obligations.FrameBitPhaseSteps : Prop :=
  ∀ (s : State) (a : Answer) (ts : List Turn), s.turns = .take a :: ts →
    (s.phase = .tBitD → s.bitIdx = 24#5 → s.mode = .tx → s.pixIdx < s.N →
      step s = .next { s with turns := ts, shreg := frame (memLookup s.buf s.pixIdx.toNat),
                              trace := s.trace ++ [.write s.cfg.dataPin true], dataLvl := .high,
                              phase := .tBitHi }) ∧
    (s.phase = .tBitD → s.bitIdx < 24#5 →
      step s = .next { s with turns := ts,
                              trace := s.trace ++ [.write s.cfg.dataPin (s.shreg.getLsbD s.bitIdx.toNat)],
                              dataLvl := levelOf (s.shreg.getLsbD s.bitIdx.toNat), phase := .tBitHi }) ∧
    (s.phase = .tBitHi →
      step s = .next { s with turns := ts, trace := s.trace ++ [.write s.cfg.clockPin true], clkLvl := .high,
                              phase := .tBitLo }) ∧
    (s.phase = .tBitLo → 0#5 < s.bitIdx →
      step s = .next { s with turns := ts, trace := s.trace ++ [.write s.cfg.clockPin false], clkLvl := .low,
                              bitIdx := s.bitIdx - 1#5, phase := .tBitD }) ∧
    (s.phase = .tBitLo → s.bitIdx = 0#5 → s.pixIdx + 1#32 < s.N →
      step s = .next { s with turns := ts, trace := s.trace ++ [.write s.cfg.clockPin false], clkLvl := .low,
                              pixIdx := s.pixIdx + 1#32, bitIdx := 24#5, phase := .tBitD }) ∧
    (s.phase = .tBitLo → s.bitIdx = 0#5 → s.N ≤ s.pixIdx + 1#32 →
      step s = .next { s with turns := ts, trace := s.trace ++ [.write s.cfg.clockPin false], clkLvl := .low,
                              pixIdx := s.pixIdx + 1#32, phase := .tBlkDlow })

/-- R135 to R138: the blank's data-low write, the two halves of its pulses, the pause and the end of SHOW. -/
def Obligations.BlankAndSettlePhaseSteps : Prop :=
  ∀ (s : State) (a : Answer) (ts : List Turn), s.turns = .take a :: ts →
    (s.phase = .tBlkDlow → 0#16 < s.cfg.blankPulses →
      step s = .next { s with turns := ts, trace := s.trace ++ [.write s.cfg.dataPin false], dataLvl := .low,
                              pulseCnt := 0#16, phase := .tBlkHi }) ∧
    (s.phase = .tBlkDlow → s.cfg.blankPulses = 0#16 →
      step s = .next { s with turns := ts, trace := s.trace ++ [.write s.cfg.dataPin false], dataLvl := .low,
                              pulseCnt := 0#16, phase := .tSettle }) ∧
    (s.phase = .tBlkHi →
      step s = .next { s with turns := ts, trace := s.trace ++ [.write s.cfg.clockPin true], clkLvl := .high,
                              phase := .tBlkLo }) ∧
    (s.phase = .tBlkLo → s.pulseCnt + 1#16 = s.cfg.blankPulses →
      step s = .next { s with turns := ts, trace := s.trace ++ [.write s.cfg.clockPin false], clkLvl := .low,
                              pulseCnt := s.pulseCnt + 1#16, phase := .tSettle }) ∧
    (s.phase = .tBlkLo → s.pulseCnt + 1#16 ≠ s.cfg.blankPulses →
      step s = .next { s with turns := ts, trace := s.trace ++ [.write s.cfg.clockPin false], clkLvl := .low,
                              pulseCnt := s.pulseCnt + 1#16, phase := .tBlkHi }) ∧
    (s.phase = .tSettle →
      ∃ s', step s = .next s' ∧ Responded s.owner .ok none s s' ∧ s'.buf = s.buf ∧
        SameButBufferAndResult
          { s with turns := ts, trace := s.trace ++ [.sleep s.cfg.settleMs], mode := .idle,
                   phase := .noPhase } s')

/-! ### SHOW: the whole refresh -/

/-- R126, with R140's line levels: a SHOW whose requests are all taken appends exactly `T_show` of the buffer as it stands,
in `3 + 2P + 2B + 75N` phase steps, responds OK on its own port, and leaves the buffer alone. The exact request list depends on
the spec's decisions D8 and D9 (R128; log entry 16, UNVERIFIED); the sampled bit stream (ShowSampledBits) does not. -/
def Obligations.ShowRunsItsClosedForm : Prop :=
  ∀ (s : State) (answers : List Answer) (ts : List Turn),
    s.mode = .idle → answers.length = showLength s.cfg s.N.toNat →
    s.turns = answers.map .take ++ ts →
      ∃ s₁ s', exec .showGrid s = .next s₁ ∧ s₁.trace = s.trace ∧ steps answers.length s₁ = .next s' ∧
        s'.trace = s.trace ++ showTrace s.cfg (bufferValues s) ∧
        Responded s.port .ok none s s' ∧ s'.mode = .idle ∧ s'.phase = .noPhase ∧ s'.buf = s.buf ∧
        s'.N = s.N ∧ s'.dataLvl = .low ∧
        s'.clkLvl = (if 0 < s.cfg.preamblePulses.toNat + 25 * s.N.toNat + s.cfg.blankPulses.toNat then .low
          else s.clkLvl) ∧
        s'.cfg = s.cfg ∧ s'.pendCount = s.pendCount ∧ s'.cmd0 = s.cmd0 ∧ s'.cmd1 = s.cmd1 ∧
        s'.port = s.port ∧ s'.turns = ts

/-- R126 with R61, R140: an admitted SHOW whose requests are all taken, whatever the hosts do between them: it loads the elements
0 to N - 1, each once, in index order, appends exactly `T_show` of the values they held at their loads, then responds OK on its
own port and ends with the line levels of R140. The exact request list depends on the spec's decisions D8 and D9 (R128; log
entry 16, UNVERIFIED); that the response goes to the port of the SHOW follows log entry 6, and turns that pass log entry 11. -/
def Obligations.ShowSendsEachLoadedElement : Prop :=
  ∀ (s : State) (between : List Turn) (a : Answer) (ts : List Turn),
    s.mode = .idle → (∀ t ∈ between, t ≠ .reset ∧ t.present s.cfg = true) →
    between.countP Turn.isTake + 1 = showLength s.cfg s.N.toNat →
    s.turns = between ++ .take a :: ts →
      ∃ s₁ s', exec .showGrid s = .next s₁ ∧ steps (between.length + 1) s₁ = .next s' ∧
        (loads (between.length + 1) s₁).map (fun l => l.1.toNat) = List.range s.N.toNat ∧
        s'.trace = s.trace ++ showTrace s.cfg ((loads (between.length + 1) s₁).map Prod.snd) ∧
        (s'.responses s.port).getLast? = some { status := .ok, data := none } ∧ s'.status = .ok ∧
        s'.mode = .idle ∧ s'.phase = .noPhase ∧ s'.N = s.N ∧ s'.dataLvl = .low ∧
        s'.clkLvl = (if 0 < s.cfg.preamblePulses.toNat + 25 * s.N.toNat + s.cfg.blankPulses.toNat then .low
          else s.clkLvl) ∧
        s'.turns = ts

/-- R31, R61: between the load of a frame and the next one, and in every other phase, no move of a host changes the
sequencer: its registers, the line levels, the trace and the count. That an accept turn which finds nothing to take (`CMD0` held
while busy, no whole command) answers a next state and is used up is the model's choice (log entry 11), `owner` the model's own
field (log entry 6, DEDUCED), and a turn for each word log entry 1. -/
def Obligations.HostMovesLeaveTheRefreshAlone : Prop :=
  ∀ (s : State) (t : Turn) (ts : List Turn),
    s.mode = .tx → t.isHostSide = true → t.present s.cfg = true → s.turns = t :: ts →
      ∃ s', step s = .next s' ∧ s'.turns = ts ∧ s'.mode = s.mode ∧ s'.phase = s.phase ∧ s'.N = s.N ∧
        s'.pulseCnt = s.pulseCnt ∧ s'.pixIdx = s.pixIdx ∧ s'.bitIdx = s.bitIdx ∧ s'.shreg = s.shreg ∧
        s'.dataLvl = s.dataLvl ∧ s'.clkLvl = s.clkLvl ∧ s'.trace = s.trace ∧ s'.owner = s.owner

/-- R141: two SHOWs with nothing between them send the same requests and both answer OK; they write nothing but `mode`,
`phase`, `status`, the datapath registers and the line levels. The exact request list depends on the spec's decisions D8 and D9
(R128; log entry 16, UNVERIFIED). -/
def Obligations.ShowTwiceSameRequests : Prop :=
  ∀ (s : State) (as₁ as₂ : List Answer) (words : List Word) (ts : List Turn),
    s.mode = .idle → s.cmd0 = encode .showGrid ++ encode .showGrid ++ words →
    as₁.length = showLength s.cfg s.N.toNat → as₂.length = showLength s.cfg s.N.toNat →
    s.turns = .accept .h0 :: as₁.map .take ++ .accept .h0 :: as₂.map .take ++ ts →
      ∃ s', steps (2 + as₁.length + as₂.length) s = .next s' ∧
        s'.trace = s.trace ++ showTrace s.cfg (bufferValues s) ++ showTrace s.cfg (bufferValues s) ∧
        s'.rsp0 = s.rsp0 ++ [{ status := .ok, data := none }, { status := .ok, data := none }] ∧
        s'.rsp1 = s.rsp1 ∧ s'.mode = .idle ∧ s'.phase = .noPhase ∧ s'.status = .ok ∧ s'.buf = s.buf ∧
        s'.N = s.N ∧ s'.cfg = s.cfg ∧ s'.pendCount = s.pendCount ∧ s'.cmd0 = words ∧ s'.cmd1 = s.cmd1

/-- R127: the position of every request of a SHOW, and the length. -/
def Obligations.ShowTracePositions : Prop :=
  ∀ (c : Config) (vs : List Pixel),
    (showTrace c vs).length = showLength c vs.length ∧
    (showTrace c vs)[0]? = some (.write c.dataPin false) ∧
    (∀ j, j < c.preamblePulses.toNat →
      (showTrace c vs)[1 + 2 * j]? = some (.write c.clockPin true) ∧
      (showTrace c vs)[2 + 2 * j]? = some (.write c.clockPin false)) ∧
    (∀ (k : Nat) (v : Pixel) (i : Nat), vs[k]? = some v → i ≤ 24 →
      (showTrace c vs)[1 + 2 * c.preamblePulses.toNat + 75 * k + 3 * (24 - i)]? =
        some (.write c.dataPin ((frame v).getLsbD i)) ∧
      (showTrace c vs)[1 + 2 * c.preamblePulses.toNat + 75 * k + 3 * (24 - i) + 1]? =
        some (.write c.clockPin true) ∧
      (showTrace c vs)[1 + 2 * c.preamblePulses.toNat + 75 * k + 3 * (24 - i) + 2]? =
        some (.write c.clockPin false)) ∧
    (showTrace c vs)[1 + 2 * c.preamblePulses.toNat + 75 * vs.length]? = some (.write c.dataPin false) ∧
    (∀ j, j < c.blankPulses.toNat →
      (showTrace c vs)[2 + 2 * c.preamblePulses.toNat + 75 * vs.length + 2 * j]? =
        some (.write c.clockPin true) ∧
      (showTrace c vs)[3 + 2 * c.preamblePulses.toNat + 75 * vs.length + 2 * j]? =
        some (.write c.clockPin false)) ∧
    (showTrace c vs)[2 + 2 * c.preamblePulses.toNat + 75 * vs.length + 2 * c.blankPulses.toNat]? =
      some (.sleep c.settleMs)

/-- R128: the sampled bit stream of a SHOW: P zeros, the frames from bit 24 down, B zeros. -/
def Obligations.ShowSampledBits : Prop :=
  ∀ (c : Config) (d : Level) (vs : List Pixel), c.wf = true →
    sampledBits c d (showTrace c vs) =
      List.replicate c.preamblePulses.toNat .low ++ vs.flatMap frameLevels ++
        List.replicate c.blankPulses.toNat .low ∧
    (sampledBits c d (showTrace c vs)).length =
      c.preamblePulses.toNat + 25 * vs.length + c.blankPulses.toNat

/-- R201: `2(P + 25N + B)` clock writes and `25N + 2` data writes. -/
def Obligations.ShowWriteCounts : Prop :=
  ∀ (c : Config) (vs : List Pixel), c.wf = true →
    countWrites c.clockPin (showTrace c vs) =
      2 * (c.preamblePulses.toNat + 25 * vs.length + c.blankPulses.toNat) ∧
    countWrites c.dataPin (showTrace c vs) = 25 * vs.length + 2

/-- R197, R120: from a low clock every pulse of a SHOW makes a rising edge; where the clock has not been written since
reset, the first pulse alone is uncertain. -/
def Obligations.OnlyFirstPulseUncertain : Prop :=
  ∀ (c : Config) (vs : List Pixel), c.wf = true →
    clockEdges c .low (showTrace c vs) =
      List.replicate (c.preamblePulses.toNat + 25 * vs.length + c.blankPulses.toNat) .rising ∧
    (0 < c.preamblePulses.toNat + 25 * vs.length + c.blankPulses.toNat →
      clockEdges c .x (showTrace c vs) =
        .unknown ::
          List.replicate (c.preamblePulses.toNat + 25 * vs.length + c.blankPulses.toNat - 1) .rising)

/-! ### The whole machine -/

/-- R40, R195: while busy, an accept turn at `CMD0` takes nothing: its words stay, and nothing changes. That such a turn answers
a next state and is used up is the model's choice (log entry 11): the spec has no such step. -/
def Obligations.Cmd0HeldWhileBusy : Prop :=
  ∀ (s : State) (ts : List Turn), s.busy = true → s.turns = .accept .h0 :: ts →
    step s = .next { s with turns := ts }

/-- R170: while the collaborator does not take the outstanding request the sequencer makes no step: whatever else moves, the
phase, the mode, the counters and the trace stand. -/
def Obligations.UntakenRequestHangs : Prop :=
  ∀ s s' : State, s.busy = true → (∀ a, s.turns.head? ≠ some (.take a)) → s.turns.head? ≠ some .reset →
    step s = .next s' →
      s'.phase = s.phase ∧ s'.mode = s.mode ∧ s'.N = s.N ∧ s'.pulseCnt = s.pulseCnt ∧ s'.pixIdx = s.pixIdx ∧
        s'.bitIdx = s.bitIdx ∧ s'.shreg = s.shreg ∧ s'.dataLvl = s.dataLvl ∧ s'.clkLvl = s.clkLvl ∧
        s'.trace = s.trace

/-- R202: in an ended run with no move to come nothing happens; so, R192, right after reset. That the machine then steps to
itself is the model's choice (log entry 12, and log entry 13 for reset): the spec has no step there. -/
def Obligations.EndedRunStands : Prop :=
  (∀ s : State, Ended s → s.turns = [] → step s = .next s) ∧ Ended State.reset ∧ step State.reset = .next State.reset

/-- R190: reset, before any step and in any state. That the responses already sent stand is the model's choice (log entry 7), as
are the kept parameters and turns to come (log entries 3, 1). -/
def Obligations.ResetTurnResets : Prop :=
  ∀ (s : State) (ts : List Turn), s.turns = .reset :: ts →
    ∃ s', step s = .next s' ∧ s'.mode = .uninit ∧ s'.phase = .noPhase ∧ s'.status = .ok ∧ s'.buf = [] ∧
      (∀ k, memRead k s' = none) ∧ s'.dataLvl = .x ∧ s'.clkLvl = .x ∧ s'.cmd0 = [] ∧ s'.cmd1 = [] ∧
      s'.trace = [] ∧ s'.rsp0 = s.rsp0 ∧ s'.rsp1 = s.rsp1 ∧ s'.cfg = s.cfg ∧ s'.turns = ts

/-- R39: the values after reset that the spec gives. -/
def Obligations.ResetStateValues : Prop :=
  State.reset.mode = .uninit ∧ State.reset.status = .ok ∧ codeByte State.reset.status = 0x00#8 ∧
  State.reset.phase = .noPhase ∧ State.reset.dataLvl = .x ∧ State.reset.clkLvl = .x ∧
  State.reset.trace = [] ∧ ∀ k, memRead k State.reset = none

/-- The invariant holds at reset. -/
def Obligations.ResetMeetsTheInvariant : Prop := Inv State.reset ∧ LevelsMatchTrace State.reset

/-- Every step keeps the invariant: phases fit modes (R27), the buffer is canonical, exists only when initialised and within
`N` (R24, R51), counters stay in their runs (R28 to R30), the frame register holds a marker (R121), the lines are at the
levels of the phase and the clock is high only inside a pulse (R32, R120). -/
def Obligations.StepKeepsTheInvariant : Prop :=
  ∀ s s' : State, Inv s → step s = .next s' → Inv s'

/-- R52: no out-of-range access ever happens: no step from a state that meets the invariant faults; and every command that
takes an index answers OUT_OF_RANGE for one at or above `N` before any access. -/
def Obligations.NoOutOfRangeAccess : Prop :=
  (∀ s : State, Inv s → ∀ r, step s ≠ .fault r) ∧
  (∀ (s : State) (index color r g b : Word), s.mode = .idle ∨ s.mode = .tx → s.N ≤ index →
    exec (.setpx index color) s = .next (raiseError .outOfRange s) ∧
    exec (.setrgb index r g b) s = .next (raiseError .outOfRange s) ∧
    exec (.getpx index) s = .next (raiseError .outOfRange s)) ∧
  (∀ (s : State) (k : Word) (v : Pixel),
    ((memRead k s).isSome = true ↔ k < s.N ∧ s.mode ≠ .uninit) ∧
    ((memWrite k v s).isSome = true ↔ k < s.N ∧ s.mode ≠ .uninit))

/-- R32: in every step `data_lvl` and `clk_lvl` stay the last levels of the trace since reset, X where it has none. -/
def Obligations.StepKeepsLineLevels : Prop :=
  ∀ s s' : State, s.cfg.wf = true → LevelsMatchTrace s → step s = .next s' → LevelsMatchTrace s'

/-- R7, R33: no step changes a parameter. -/
def Obligations.StepKeepsParameters : Prop := ∀ s s' : State, step s = .next s' → s'.cfg = s.cfg

/-- R22: the number of each mode, and the only changes of mode: the accept step of an INIT, its success or failure, the accept step
of a SHOW, its end, reset. Which port accepts where no turn is listed is the model's choice (log entry 2). -/
def Obligations.ModeTransitions : Prop :=
  modeBits .uninit = 0#2 ∧ modeBits .initializing = 1#2 ∧ modeBits .idle = 2#2 ∧ modeBits .tx = 3#2 ∧
  (∀ s s' : State, Inv s → step s = .next s' → s'.mode ≠ s.mode →
    (s.mode = .uninit ∧ s'.mode = .initializing ∧ s'.phase = .iSetup ∧
      ∃ p count rest, AcceptsAt s p ∧ decode (s.words p) = .command (.init count) rest) ∨
    (s.mode = .initializing ∧ s'.mode = .idle ∧ s.phase = .iCfgC ∧ s.turns.head? = some (.take .ok)) ∨
    (s.mode = .initializing ∧ s'.mode = .uninit ∧ s.turns.head? = some (.take .fail)) ∨
    (s.mode = .idle ∧ s'.mode = .tx ∧ s'.phase = .tDlow ∧
      ∃ p rest, AcceptsAt s p ∧ decode (s.words p) = .command .showGrid rest) ∨
    (s.mode = .tx ∧ s'.mode = .idle ∧ s.phase = .tSettle ∧ ∃ a, s.turns.head? = some (.take a)) ∨
    (s'.mode = .uninit ∧ s.turns.head? = some .reset)) ∧
  ∀ s s' : State, s.turns.head? = some .reset → step s = .next s' → s'.mode = .uninit

/-- R23, R24: `N` is written only by a successful INIT (and reset); elements only by INIT, SETPX, SETRGB and CLEAR, so never
by a phase step of a SHOW, and only in IDLE and TX by the accept step of such a command at the port the step accepts at. Which
port that is where no turn is listed is the model's choice (log entry 2). -/
def Obligations.CountAndBufferWriters : Prop :=
  ∀ s s' : State, Inv s → step s = .next s' → s.turns.head? ≠ some .reset →
    (s'.N ≠ s.N → s.phase = .iCfgC ∧ s.turns.head? = some (.take .ok) ∧ s'.N = s.pendCount) ∧
    (s'.buf ≠ s.buf → s.initialized = true ∧ (∀ a, s.turns.head? ≠ some (.take a)) ∧
      ∃ p i rest, AcceptsAt s p ∧ decode (s.words p) = .command i rest ∧
        ((∃ index color, i = .setpx index color) ∨ (∃ index r g b, i = .setrgb index r g b) ∨ i = .clear))

/-- R36, R41, R62: a step that is no reset appends at most one request, and only a step in which the collaborator takes the
outstanding one does. -/
def Obligations.OneRequestPerTakenStep : Prop :=
  ∀ s s' : State, step s = .next s' → s.turns.head? ≠ some .reset →
    s'.trace = s.trace ∨
      s.phase ≠ .noPhase ∧ (∃ a, s.turns.head? = some (.take a)) ∧ ∃ e, s'.trace = s.trace ++ [e]

/-- R36: the block never reads the port trace: from any other trace a step ends the same way, in the same next state, with the
same requests appended to that other trace; a reset empties either. -/
def Obligations.TraceIsNeverRead : Prop :=
  (∀ (s s' : State) (trace : List Request), step s = .next s' → s.turns.head? ≠ some .reset →
    ∃ es, s'.trace = s.trace ++ es ∧
      step { s with trace := trace } = .next { s' with trace := trace ++ es }) ∧
  (∀ (s s' : State) (trace : List Request), step s = .next s' → s.turns.head? = some .reset →
    s'.trace = [] ∧ step { s with trace := trace } = .next s') ∧
  (∀ (s : State) (trace : List Request),
    (∀ r, step s = .fault r → step { s with trace := trace } = .fault r) ∧
    ∀ r, step s = .refused r → step { s with trace := trace } = .refused r)

/-- R39, V3: the values reset leaves unspecified are never observed: two states that differ only in elements not yet written
take the same step and again differ only so. It makes the model's reset values (log entry 4) unobservable. -/
def Obligations.UnspecifiedNeverObserved : Prop :=
  ∀ s s' t : State, Inv s → SameButUnspecified s t → step s = .next s' →
    ∃ t', step t = .next t' ∧ SameButUnspecified s' t'
end

