-- ==== Sys2Proof/Laws/Decode.lean ====
section
/-! SUPPORT. The fields of a header, and what the decoder's last test can answer. -/

namespace Sys2Proof

/-- A header is its two fields. -/
theorem header_toNat (h : Word) : h.toNat = (opcodeField h).toNat + 256 * (reservedField h).toNat := by
  simp only [opcodeField, reservedField, BitVec.extractLsb'_toNat, Nat.shiftRight_zero]
  have := h.isLt
  omega

/-- Headers with the same `OPC` and `RSV` are equal. -/
theorem header_ext (g h : Word) (ho : opcodeField g = opcodeField h)
    (hr : reservedField g = reservedField h) : g = h :=
  BitVec.eq_of_toNat_eq (by rw [header_toNat g, header_toNat h, ho, hr])

/-- The header of every command has `RSV = 0`. -/
theorem reservedField_headerWord (i : Instr) : reservedField (headerWord i) = 0#24 := by
  cases i <;> simp only [headerWord] <;> decide

@[simp] theorem opcodeField_one : opcodeField 0x00000001#32 = 0x01#8 := by decide
@[simp] theorem opcodeField_two : opcodeField 0x00000002#32 = 0x02#8 := by decide
@[simp] theorem opcodeField_three : opcodeField 0x00000003#32 = 0x03#8 := by decide
@[simp] theorem opcodeField_four : opcodeField 0x00000004#32 = 0x04#8 := by decide
@[simp] theorem opcodeField_five : opcodeField 0x00000005#32 = 0x05#8 := by decide
@[simp] theorem opcodeField_six : opcodeField 0x00000006#32 = 0x06#8 := by decide
@[simp] theorem reservedField_one : reservedField 0x00000001#32 = 0#24 := by decide
@[simp] theorem reservedField_two : reservedField 0x00000002#32 = 0#24 := by decide
@[simp] theorem reservedField_three : reservedField 0x00000003#32 = 0#24 := by decide
@[simp] theorem reservedField_four : reservedField 0x00000004#32 = 0#24 := by decide
@[simp] theorem reservedField_five : reservedField 0x00000005#32 = 0#24 := by decide
@[simp] theorem reservedField_six : reservedField 0x00000006#32 = 0#24 := by decide

/-- The decoder's last test never waits. -/
@[simp] theorem checkReserved_ne_incomplete (h : Word) (i : Instr) (rest : List Word) :
    checkReserved h i rest ≠ .incomplete := by
  unfold checkReserved; split <;> simp

/-- The decoder's last test passes the command on exactly when `RSV = 0`. -/
theorem checkReserved_eq_command_iff (h : Word) (i j : Instr) (r q : List Word) :
    checkReserved h i r = .command j q ↔ reservedField h = 0#24 ∧ i = j ∧ r = q := by
  unfold checkReserved; split <;> simp_all

/-- The decoder's last test refuses a header exactly when `RSV` is not 0. -/
theorem checkReserved_eq_bad_iff (h : Word) (i : Instr) (why : BadHeader) (r q : List Word) :
    checkReserved h i r = .bad why q ↔ reservedField h ≠ 0#24 ∧ why = .reservedBits ∧ r = q := by
  unfold checkReserved; split <;> simp_all [eq_comm]

@[simp] theorem decode_nil : decode [] = .incomplete := rfl

end Sys2Proof
end

