-- ==== Sys2Proof/Laws/State.lean ====
section
/-! SUPPORT. Every field after every named update of the state, so that no proof unfolds a record update. -/

namespace Sys2Proof.Machine

/-! ### request -/

@[simp] theorem request_cfg (e : Request) (s : State) : (request e s).cfg = s.cfg := rfl
@[simp] theorem request_mode (e : Request) (s : State) : (request e s).mode = s.mode := rfl
@[simp] theorem request_N (e : Request) (s : State) : (request e s).N = s.N := rfl
@[simp] theorem request_buf (e : Request) (s : State) : (request e s).buf = s.buf := rfl
@[simp] theorem request_status (e : Request) (s : State) : (request e s).status = s.status := rfl
@[simp] theorem request_phase (e : Request) (s : State) : (request e s).phase = s.phase := rfl
@[simp] theorem request_pendCount (e : Request) (s : State) : (request e s).pendCount = s.pendCount := rfl
@[simp] theorem request_pulseCnt (e : Request) (s : State) : (request e s).pulseCnt = s.pulseCnt := rfl
@[simp] theorem request_pixIdx (e : Request) (s : State) : (request e s).pixIdx = s.pixIdx := rfl
@[simp] theorem request_bitIdx (e : Request) (s : State) : (request e s).bitIdx = s.bitIdx := rfl
@[simp] theorem request_shreg (e : Request) (s : State) : (request e s).shreg = s.shreg := rfl
@[simp] theorem request_dataLvl (e : Request) (s : State) : (request e s).dataLvl = s.dataLvl := rfl
@[simp] theorem request_clkLvl (e : Request) (s : State) : (request e s).clkLvl = s.clkLvl := rfl
@[simp] theorem request_cmd0 (e : Request) (s : State) : (request e s).cmd0 = s.cmd0 := rfl
@[simp] theorem request_cmd1 (e : Request) (s : State) : (request e s).cmd1 = s.cmd1 := rfl
@[simp] theorem request_rsp0 (e : Request) (s : State) : (request e s).rsp0 = s.rsp0 := rfl
@[simp] theorem request_rsp1 (e : Request) (s : State) : (request e s).rsp1 = s.rsp1 := rfl
@[simp] theorem request_trace (e : Request) (s : State) : (request e s).trace = s.trace ++ [e] := rfl
@[simp] theorem request_port (e : Request) (s : State) : (request e s).port = s.port := rfl
@[simp] theorem request_owner (e : Request) (s : State) : (request e s).owner = s.owner := rfl
@[simp] theorem request_turns (e : Request) (s : State) : (request e s).turns = s.turns := rfl

/-! ### writeData -/

@[simp] theorem writeData_cfg (b : Bool) (s : State) : (writeData b s).cfg = s.cfg := rfl
@[simp] theorem writeData_mode (b : Bool) (s : State) : (writeData b s).mode = s.mode := rfl
@[simp] theorem writeData_N (b : Bool) (s : State) : (writeData b s).N = s.N := rfl
@[simp] theorem writeData_buf (b : Bool) (s : State) : (writeData b s).buf = s.buf := rfl
@[simp] theorem writeData_status (b : Bool) (s : State) : (writeData b s).status = s.status := rfl
@[simp] theorem writeData_phase (b : Bool) (s : State) : (writeData b s).phase = s.phase := rfl
@[simp] theorem writeData_pendCount (b : Bool) (s : State) : (writeData b s).pendCount = s.pendCount := rfl
@[simp] theorem writeData_pulseCnt (b : Bool) (s : State) : (writeData b s).pulseCnt = s.pulseCnt := rfl
@[simp] theorem writeData_pixIdx (b : Bool) (s : State) : (writeData b s).pixIdx = s.pixIdx := rfl
@[simp] theorem writeData_bitIdx (b : Bool) (s : State) : (writeData b s).bitIdx = s.bitIdx := rfl
@[simp] theorem writeData_shreg (b : Bool) (s : State) : (writeData b s).shreg = s.shreg := rfl
@[simp] theorem writeData_dataLvl (b : Bool) (s : State) : (writeData b s).dataLvl = levelOf b := rfl
@[simp] theorem writeData_clkLvl (b : Bool) (s : State) : (writeData b s).clkLvl = s.clkLvl := rfl
@[simp] theorem writeData_cmd0 (b : Bool) (s : State) : (writeData b s).cmd0 = s.cmd0 := rfl
@[simp] theorem writeData_cmd1 (b : Bool) (s : State) : (writeData b s).cmd1 = s.cmd1 := rfl
@[simp] theorem writeData_rsp0 (b : Bool) (s : State) : (writeData b s).rsp0 = s.rsp0 := rfl
@[simp] theorem writeData_rsp1 (b : Bool) (s : State) : (writeData b s).rsp1 = s.rsp1 := rfl
@[simp] theorem writeData_trace (b : Bool) (s : State) : (writeData b s).trace = s.trace ++ [.write s.cfg.dataPin b] := rfl
@[simp] theorem writeData_port (b : Bool) (s : State) : (writeData b s).port = s.port := rfl
@[simp] theorem writeData_owner (b : Bool) (s : State) : (writeData b s).owner = s.owner := rfl
@[simp] theorem writeData_turns (b : Bool) (s : State) : (writeData b s).turns = s.turns := rfl

/-! ### writeClock -/

@[simp] theorem writeClock_cfg (b : Bool) (s : State) : (writeClock b s).cfg = s.cfg := rfl
@[simp] theorem writeClock_mode (b : Bool) (s : State) : (writeClock b s).mode = s.mode := rfl
@[simp] theorem writeClock_N (b : Bool) (s : State) : (writeClock b s).N = s.N := rfl
@[simp] theorem writeClock_buf (b : Bool) (s : State) : (writeClock b s).buf = s.buf := rfl
@[simp] theorem writeClock_status (b : Bool) (s : State) : (writeClock b s).status = s.status := rfl
@[simp] theorem writeClock_phase (b : Bool) (s : State) : (writeClock b s).phase = s.phase := rfl
@[simp] theorem writeClock_pendCount (b : Bool) (s : State) : (writeClock b s).pendCount = s.pendCount := rfl
@[simp] theorem writeClock_pulseCnt (b : Bool) (s : State) : (writeClock b s).pulseCnt = s.pulseCnt := rfl
@[simp] theorem writeClock_pixIdx (b : Bool) (s : State) : (writeClock b s).pixIdx = s.pixIdx := rfl
@[simp] theorem writeClock_bitIdx (b : Bool) (s : State) : (writeClock b s).bitIdx = s.bitIdx := rfl
@[simp] theorem writeClock_shreg (b : Bool) (s : State) : (writeClock b s).shreg = s.shreg := rfl
@[simp] theorem writeClock_dataLvl (b : Bool) (s : State) : (writeClock b s).dataLvl = s.dataLvl := rfl
@[simp] theorem writeClock_clkLvl (b : Bool) (s : State) : (writeClock b s).clkLvl = levelOf b := rfl
@[simp] theorem writeClock_cmd0 (b : Bool) (s : State) : (writeClock b s).cmd0 = s.cmd0 := rfl
@[simp] theorem writeClock_cmd1 (b : Bool) (s : State) : (writeClock b s).cmd1 = s.cmd1 := rfl
@[simp] theorem writeClock_rsp0 (b : Bool) (s : State) : (writeClock b s).rsp0 = s.rsp0 := rfl
@[simp] theorem writeClock_rsp1 (b : Bool) (s : State) : (writeClock b s).rsp1 = s.rsp1 := rfl
@[simp] theorem writeClock_trace (b : Bool) (s : State) : (writeClock b s).trace = s.trace ++ [.write s.cfg.clockPin b] := rfl
@[simp] theorem writeClock_port (b : Bool) (s : State) : (writeClock b s).port = s.port := rfl
@[simp] theorem writeClock_owner (b : Bool) (s : State) : (writeClock b s).owner = s.owner := rfl
@[simp] theorem writeClock_turns (b : Bool) (s : State) : (writeClock b s).turns = s.turns := rfl

/-! ### respondOn -/

@[simp] theorem respondOn_cfg (p : Port) (c : ResultCode) (d : Option Word) (s : State) : (respondOn p c d s).cfg = s.cfg := by cases p <;> rfl
@[simp] theorem respondOn_mode (p : Port) (c : ResultCode) (d : Option Word) (s : State) : (respondOn p c d s).mode = s.mode := by cases p <;> rfl
@[simp] theorem respondOn_N (p : Port) (c : ResultCode) (d : Option Word) (s : State) : (respondOn p c d s).N = s.N := by cases p <;> rfl
@[simp] theorem respondOn_buf (p : Port) (c : ResultCode) (d : Option Word) (s : State) : (respondOn p c d s).buf = s.buf := by cases p <;> rfl
@[simp] theorem respondOn_status (p : Port) (c : ResultCode) (d : Option Word) (s : State) : (respondOn p c d s).status = c := rfl
@[simp] theorem respondOn_phase (p : Port) (c : ResultCode) (d : Option Word) (s : State) : (respondOn p c d s).phase = s.phase := by cases p <;> rfl
@[simp] theorem respondOn_pendCount (p : Port) (c : ResultCode) (d : Option Word) (s : State) : (respondOn p c d s).pendCount = s.pendCount := by cases p <;> rfl
@[simp] theorem respondOn_pulseCnt (p : Port) (c : ResultCode) (d : Option Word) (s : State) : (respondOn p c d s).pulseCnt = s.pulseCnt := by cases p <;> rfl
@[simp] theorem respondOn_pixIdx (p : Port) (c : ResultCode) (d : Option Word) (s : State) : (respondOn p c d s).pixIdx = s.pixIdx := by cases p <;> rfl
@[simp] theorem respondOn_bitIdx (p : Port) (c : ResultCode) (d : Option Word) (s : State) : (respondOn p c d s).bitIdx = s.bitIdx := by cases p <;> rfl
@[simp] theorem respondOn_shreg (p : Port) (c : ResultCode) (d : Option Word) (s : State) : (respondOn p c d s).shreg = s.shreg := by cases p <;> rfl
@[simp] theorem respondOn_dataLvl (p : Port) (c : ResultCode) (d : Option Word) (s : State) : (respondOn p c d s).dataLvl = s.dataLvl := by cases p <;> rfl
@[simp] theorem respondOn_clkLvl (p : Port) (c : ResultCode) (d : Option Word) (s : State) : (respondOn p c d s).clkLvl = s.clkLvl := by cases p <;> rfl
@[simp] theorem respondOn_cmd0 (p : Port) (c : ResultCode) (d : Option Word) (s : State) : (respondOn p c d s).cmd0 = s.cmd0 := by cases p <;> rfl
@[simp] theorem respondOn_cmd1 (p : Port) (c : ResultCode) (d : Option Word) (s : State) : (respondOn p c d s).cmd1 = s.cmd1 := by cases p <;> rfl
@[simp] theorem respondOn_trace (p : Port) (c : ResultCode) (d : Option Word) (s : State) : (respondOn p c d s).trace = s.trace := by cases p <;> rfl
@[simp] theorem respondOn_port (p : Port) (c : ResultCode) (d : Option Word) (s : State) : (respondOn p c d s).port = s.port := by cases p <;> rfl
@[simp] theorem respondOn_owner (p : Port) (c : ResultCode) (d : Option Word) (s : State) : (respondOn p c d s).owner = s.owner := by cases p <;> rfl
@[simp] theorem respondOn_turns (p : Port) (c : ResultCode) (d : Option Word) (s : State) : (respondOn p c d s).turns = s.turns := by cases p <;> rfl
@[simp] theorem respondOn_h0_rsp0 (c : ResultCode) (d : Option Word) (s : State) : (respondOn .h0 c d s).rsp0 = s.rsp0 ++ [{ status := c, data := d }] := rfl
@[simp] theorem respondOn_h0_rsp1 (c : ResultCode) (d : Option Word) (s : State) : (respondOn .h0 c d s).rsp1 = s.rsp1 := rfl
@[simp] theorem respondOn_h1_rsp0 (c : ResultCode) (d : Option Word) (s : State) : (respondOn .h1 c d s).rsp0 = s.rsp0 := rfl
@[simp] theorem respondOn_h1_rsp1 (c : ResultCode) (d : Option Word) (s : State) : (respondOn .h1 c d s).rsp1 = s.rsp1 ++ [{ status := c, data := d }] := rfl

/-! ### raiseError -/

@[simp] theorem raiseError_cfg (c : ResultCode) (s : State) : (raiseError c s).cfg = s.cfg := by simp [raiseError]
@[simp] theorem raiseError_mode (c : ResultCode) (s : State) : (raiseError c s).mode = s.mode := by simp [raiseError]
@[simp] theorem raiseError_N (c : ResultCode) (s : State) : (raiseError c s).N = s.N := by simp [raiseError]
@[simp] theorem raiseError_buf (c : ResultCode) (s : State) : (raiseError c s).buf = s.buf := by simp [raiseError]
@[simp] theorem raiseError_status (c : ResultCode) (s : State) : (raiseError c s).status = c := by simp [raiseError]
@[simp] theorem raiseError_phase (c : ResultCode) (s : State) : (raiseError c s).phase = s.phase := by simp [raiseError]
@[simp] theorem raiseError_pendCount (c : ResultCode) (s : State) : (raiseError c s).pendCount = s.pendCount := by simp [raiseError]
@[simp] theorem raiseError_pulseCnt (c : ResultCode) (s : State) : (raiseError c s).pulseCnt = s.pulseCnt := by simp [raiseError]
@[simp] theorem raiseError_pixIdx (c : ResultCode) (s : State) : (raiseError c s).pixIdx = s.pixIdx := by simp [raiseError]
@[simp] theorem raiseError_bitIdx (c : ResultCode) (s : State) : (raiseError c s).bitIdx = s.bitIdx := by simp [raiseError]
@[simp] theorem raiseError_shreg (c : ResultCode) (s : State) : (raiseError c s).shreg = s.shreg := by simp [raiseError]
@[simp] theorem raiseError_dataLvl (c : ResultCode) (s : State) : (raiseError c s).dataLvl = s.dataLvl := by simp [raiseError]
@[simp] theorem raiseError_clkLvl (c : ResultCode) (s : State) : (raiseError c s).clkLvl = s.clkLvl := by simp [raiseError]
@[simp] theorem raiseError_cmd0 (c : ResultCode) (s : State) : (raiseError c s).cmd0 = s.cmd0 := by simp [raiseError]
@[simp] theorem raiseError_cmd1 (c : ResultCode) (s : State) : (raiseError c s).cmd1 = s.cmd1 := by simp [raiseError]
@[simp] theorem raiseError_trace (c : ResultCode) (s : State) : (raiseError c s).trace = s.trace := by simp [raiseError]
@[simp] theorem raiseError_port (c : ResultCode) (s : State) : (raiseError c s).port = s.port := by simp [raiseError]
@[simp] theorem raiseError_owner (c : ResultCode) (s : State) : (raiseError c s).owner = s.owner := by simp [raiseError]
@[simp] theorem raiseError_turns (c : ResultCode) (s : State) : (raiseError c s).turns = s.turns := by simp [raiseError]

/-! ### consume -/

@[simp] theorem consume_cfg (p : Port) (ws : List Word) (s : State) : (consume p ws s).cfg = s.cfg := by cases p <;> rfl
@[simp] theorem consume_mode (p : Port) (ws : List Word) (s : State) : (consume p ws s).mode = s.mode := by cases p <;> rfl
@[simp] theorem consume_N (p : Port) (ws : List Word) (s : State) : (consume p ws s).N = s.N := by cases p <;> rfl
@[simp] theorem consume_buf (p : Port) (ws : List Word) (s : State) : (consume p ws s).buf = s.buf := by cases p <;> rfl
@[simp] theorem consume_status (p : Port) (ws : List Word) (s : State) : (consume p ws s).status = s.status := by cases p <;> rfl
@[simp] theorem consume_phase (p : Port) (ws : List Word) (s : State) : (consume p ws s).phase = s.phase := by cases p <;> rfl
@[simp] theorem consume_pendCount (p : Port) (ws : List Word) (s : State) : (consume p ws s).pendCount = s.pendCount := by cases p <;> rfl
@[simp] theorem consume_pulseCnt (p : Port) (ws : List Word) (s : State) : (consume p ws s).pulseCnt = s.pulseCnt := by cases p <;> rfl
@[simp] theorem consume_pixIdx (p : Port) (ws : List Word) (s : State) : (consume p ws s).pixIdx = s.pixIdx := by cases p <;> rfl
@[simp] theorem consume_bitIdx (p : Port) (ws : List Word) (s : State) : (consume p ws s).bitIdx = s.bitIdx := by cases p <;> rfl
@[simp] theorem consume_shreg (p : Port) (ws : List Word) (s : State) : (consume p ws s).shreg = s.shreg := by cases p <;> rfl
@[simp] theorem consume_dataLvl (p : Port) (ws : List Word) (s : State) : (consume p ws s).dataLvl = s.dataLvl := by cases p <;> rfl
@[simp] theorem consume_clkLvl (p : Port) (ws : List Word) (s : State) : (consume p ws s).clkLvl = s.clkLvl := by cases p <;> rfl
@[simp] theorem consume_rsp0 (p : Port) (ws : List Word) (s : State) : (consume p ws s).rsp0 = s.rsp0 := by cases p <;> rfl
@[simp] theorem consume_rsp1 (p : Port) (ws : List Word) (s : State) : (consume p ws s).rsp1 = s.rsp1 := by cases p <;> rfl
@[simp] theorem consume_trace (p : Port) (ws : List Word) (s : State) : (consume p ws s).trace = s.trace := by cases p <;> rfl
@[simp] theorem consume_port (p : Port) (ws : List Word) (s : State) : (consume p ws s).port = p := rfl
@[simp] theorem consume_owner (p : Port) (ws : List Word) (s : State) : (consume p ws s).owner = s.owner := by cases p <;> rfl
@[simp] theorem consume_turns (p : Port) (ws : List Word) (s : State) : (consume p ws s).turns = s.turns := by cases p <;> rfl
@[simp] theorem consume_h0_cmd0 (ws : List Word) (s : State) : (consume .h0 ws s).cmd0 = ws := rfl
@[simp] theorem consume_h0_cmd1 (ws : List Word) (s : State) : (consume .h0 ws s).cmd1 = s.cmd1 := rfl
@[simp] theorem consume_h1_cmd0 (ws : List Word) (s : State) : (consume .h1 ws s).cmd0 = s.cmd0 := rfl
@[simp] theorem consume_h1_cmd1 (ws : List Word) (s : State) : (consume .h1 ws s).cmd1 = ws := rfl

/-! ### setWords -/

@[simp] theorem setWords_cfg (p : Port) (ws : List Word) (s : State) : (setWords p ws s).cfg = s.cfg := by cases p <;> rfl
@[simp] theorem setWords_mode (p : Port) (ws : List Word) (s : State) : (setWords p ws s).mode = s.mode := by cases p <;> rfl
@[simp] theorem setWords_N (p : Port) (ws : List Word) (s : State) : (setWords p ws s).N = s.N := by cases p <;> rfl
@[simp] theorem setWords_buf (p : Port) (ws : List Word) (s : State) : (setWords p ws s).buf = s.buf := by cases p <;> rfl
@[simp] theorem setWords_status (p : Port) (ws : List Word) (s : State) : (setWords p ws s).status = s.status := by cases p <;> rfl
@[simp] theorem setWords_phase (p : Port) (ws : List Word) (s : State) : (setWords p ws s).phase = s.phase := by cases p <;> rfl
@[simp] theorem setWords_pendCount (p : Port) (ws : List Word) (s : State) : (setWords p ws s).pendCount = s.pendCount := by cases p <;> rfl
@[simp] theorem setWords_pulseCnt (p : Port) (ws : List Word) (s : State) : (setWords p ws s).pulseCnt = s.pulseCnt := by cases p <;> rfl
@[simp] theorem setWords_pixIdx (p : Port) (ws : List Word) (s : State) : (setWords p ws s).pixIdx = s.pixIdx := by cases p <;> rfl
@[simp] theorem setWords_bitIdx (p : Port) (ws : List Word) (s : State) : (setWords p ws s).bitIdx = s.bitIdx := by cases p <;> rfl
@[simp] theorem setWords_shreg (p : Port) (ws : List Word) (s : State) : (setWords p ws s).shreg = s.shreg := by cases p <;> rfl
@[simp] theorem setWords_dataLvl (p : Port) (ws : List Word) (s : State) : (setWords p ws s).dataLvl = s.dataLvl := by cases p <;> rfl
@[simp] theorem setWords_clkLvl (p : Port) (ws : List Word) (s : State) : (setWords p ws s).clkLvl = s.clkLvl := by cases p <;> rfl
@[simp] theorem setWords_rsp0 (p : Port) (ws : List Word) (s : State) : (setWords p ws s).rsp0 = s.rsp0 := by cases p <;> rfl
@[simp] theorem setWords_rsp1 (p : Port) (ws : List Word) (s : State) : (setWords p ws s).rsp1 = s.rsp1 := by cases p <;> rfl
@[simp] theorem setWords_trace (p : Port) (ws : List Word) (s : State) : (setWords p ws s).trace = s.trace := by cases p <;> rfl
@[simp] theorem setWords_port (p : Port) (ws : List Word) (s : State) : (setWords p ws s).port = s.port := by cases p <;> rfl
@[simp] theorem setWords_owner (p : Port) (ws : List Word) (s : State) : (setWords p ws s).owner = s.owner := by cases p <;> rfl
@[simp] theorem setWords_turns (p : Port) (ws : List Word) (s : State) : (setWords p ws s).turns = s.turns := by cases p <;> rfl
@[simp] theorem setWords_h0_cmd0 (ws : List Word) (s : State) : (setWords .h0 ws s).cmd0 = ws := rfl
@[simp] theorem setWords_h0_cmd1 (ws : List Word) (s : State) : (setWords .h0 ws s).cmd1 = s.cmd1 := rfl
@[simp] theorem setWords_h1_cmd0 (ws : List Word) (s : State) : (setWords .h1 ws s).cmd0 = s.cmd0 := rfl
@[simp] theorem setWords_h1_cmd1 (ws : List Word) (s : State) : (setWords .h1 ws s).cmd1 = ws := rfl

/-! ### resetBlock -/

@[simp] theorem resetBlock_cfg (s : State) : (resetBlock s).cfg = s.cfg := rfl
@[simp] theorem resetBlock_mode (s : State) : (resetBlock s).mode = .uninit := rfl
@[simp] theorem resetBlock_N (s : State) : (resetBlock s).N = 0#32 := rfl
@[simp] theorem resetBlock_buf (s : State) : (resetBlock s).buf = [] := rfl
@[simp] theorem resetBlock_status (s : State) : (resetBlock s).status = .ok := rfl
@[simp] theorem resetBlock_phase (s : State) : (resetBlock s).phase = .noPhase := rfl
@[simp] theorem resetBlock_pendCount (s : State) : (resetBlock s).pendCount = 0#32 := rfl
@[simp] theorem resetBlock_pulseCnt (s : State) : (resetBlock s).pulseCnt = 0#16 := rfl
@[simp] theorem resetBlock_pixIdx (s : State) : (resetBlock s).pixIdx = 0#32 := rfl
@[simp] theorem resetBlock_bitIdx (s : State) : (resetBlock s).bitIdx = 0#5 := rfl
@[simp] theorem resetBlock_shreg (s : State) : (resetBlock s).shreg = 0#25 := rfl
@[simp] theorem resetBlock_dataLvl (s : State) : (resetBlock s).dataLvl = .x := rfl
@[simp] theorem resetBlock_clkLvl (s : State) : (resetBlock s).clkLvl = .x := rfl
@[simp] theorem resetBlock_cmd0 (s : State) : (resetBlock s).cmd0 = [] := rfl
@[simp] theorem resetBlock_cmd1 (s : State) : (resetBlock s).cmd1 = [] := rfl
@[simp] theorem resetBlock_rsp0 (s : State) : (resetBlock s).rsp0 = s.rsp0 := rfl
@[simp] theorem resetBlock_rsp1 (s : State) : (resetBlock s).rsp1 = s.rsp1 := rfl
@[simp] theorem resetBlock_trace (s : State) : (resetBlock s).trace = [] := rfl
@[simp] theorem resetBlock_port (s : State) : (resetBlock s).port = .h0 := rfl
@[simp] theorem resetBlock_owner (s : State) : (resetBlock s).owner = .h0 := rfl
@[simp] theorem resetBlock_turns (s : State) : (resetBlock s).turns = s.turns := rfl

/-! ### afterPreamble -/

@[simp] theorem afterPreamble_cfg (s : State) : (afterPreamble s).cfg = s.cfg := by unfold afterPreamble; split <;> rfl
@[simp] theorem afterPreamble_mode (s : State) : (afterPreamble s).mode = s.mode := by unfold afterPreamble; split <;> rfl
@[simp] theorem afterPreamble_N (s : State) : (afterPreamble s).N = s.N := by unfold afterPreamble; split <;> rfl
@[simp] theorem afterPreamble_buf (s : State) : (afterPreamble s).buf = s.buf := by unfold afterPreamble; split <;> rfl
@[simp] theorem afterPreamble_status (s : State) : (afterPreamble s).status = s.status := by unfold afterPreamble; split <;> rfl
@[simp] theorem afterPreamble_pendCount (s : State) : (afterPreamble s).pendCount = s.pendCount := by unfold afterPreamble; split <;> rfl
@[simp] theorem afterPreamble_pulseCnt (s : State) : (afterPreamble s).pulseCnt = s.pulseCnt := by unfold afterPreamble; split <;> rfl
@[simp] theorem afterPreamble_shreg (s : State) : (afterPreamble s).shreg = s.shreg := by unfold afterPreamble; split <;> rfl
@[simp] theorem afterPreamble_dataLvl (s : State) : (afterPreamble s).dataLvl = s.dataLvl := by unfold afterPreamble; split <;> rfl
@[simp] theorem afterPreamble_clkLvl (s : State) : (afterPreamble s).clkLvl = s.clkLvl := by unfold afterPreamble; split <;> rfl
@[simp] theorem afterPreamble_cmd0 (s : State) : (afterPreamble s).cmd0 = s.cmd0 := by unfold afterPreamble; split <;> rfl
@[simp] theorem afterPreamble_cmd1 (s : State) : (afterPreamble s).cmd1 = s.cmd1 := by unfold afterPreamble; split <;> rfl
@[simp] theorem afterPreamble_rsp0 (s : State) : (afterPreamble s).rsp0 = s.rsp0 := by unfold afterPreamble; split <;> rfl
@[simp] theorem afterPreamble_rsp1 (s : State) : (afterPreamble s).rsp1 = s.rsp1 := by unfold afterPreamble; split <;> rfl
@[simp] theorem afterPreamble_trace (s : State) : (afterPreamble s).trace = s.trace := by unfold afterPreamble; split <;> rfl
@[simp] theorem afterPreamble_port (s : State) : (afterPreamble s).port = s.port := by unfold afterPreamble; split <;> rfl
@[simp] theorem afterPreamble_owner (s : State) : (afterPreamble s).owner = s.owner := by unfold afterPreamble; split <;> rfl
@[simp] theorem afterPreamble_turns (s : State) : (afterPreamble s).turns = s.turns := by unfold afterPreamble; split <;> rfl

/-! ### afterTurn -/

/-- The state a step's move works on: the turn is used up. -/
def afterTurn (s : State) : State := { s with turns := s.turns.tail }

@[simp] theorem afterTurn_cfg (s : State) : (afterTurn s).cfg = s.cfg := rfl
@[simp] theorem afterTurn_mode (s : State) : (afterTurn s).mode = s.mode := rfl
@[simp] theorem afterTurn_N (s : State) : (afterTurn s).N = s.N := rfl
@[simp] theorem afterTurn_buf (s : State) : (afterTurn s).buf = s.buf := rfl
@[simp] theorem afterTurn_status (s : State) : (afterTurn s).status = s.status := rfl
@[simp] theorem afterTurn_phase (s : State) : (afterTurn s).phase = s.phase := rfl
@[simp] theorem afterTurn_pendCount (s : State) : (afterTurn s).pendCount = s.pendCount := rfl
@[simp] theorem afterTurn_pulseCnt (s : State) : (afterTurn s).pulseCnt = s.pulseCnt := rfl
@[simp] theorem afterTurn_pixIdx (s : State) : (afterTurn s).pixIdx = s.pixIdx := rfl
@[simp] theorem afterTurn_bitIdx (s : State) : (afterTurn s).bitIdx = s.bitIdx := rfl
@[simp] theorem afterTurn_shreg (s : State) : (afterTurn s).shreg = s.shreg := rfl
@[simp] theorem afterTurn_dataLvl (s : State) : (afterTurn s).dataLvl = s.dataLvl := rfl
@[simp] theorem afterTurn_clkLvl (s : State) : (afterTurn s).clkLvl = s.clkLvl := rfl
@[simp] theorem afterTurn_cmd0 (s : State) : (afterTurn s).cmd0 = s.cmd0 := rfl
@[simp] theorem afterTurn_cmd1 (s : State) : (afterTurn s).cmd1 = s.cmd1 := rfl
@[simp] theorem afterTurn_rsp0 (s : State) : (afterTurn s).rsp0 = s.rsp0 := rfl
@[simp] theorem afterTurn_rsp1 (s : State) : (afterTurn s).rsp1 = s.rsp1 := rfl
@[simp] theorem afterTurn_trace (s : State) : (afterTurn s).trace = s.trace := rfl
@[simp] theorem afterTurn_port (s : State) : (afterTurn s).port = s.port := rfl
@[simp] theorem afterTurn_owner (s : State) : (afterTurn s).owner = s.owner := rfl
@[simp] theorem afterTurn_turns (s : State) : (afterTurn s).turns = s.turns.tail := rfl
@[simp] theorem afterTurn_words (p : Port) (s : State) : (afterTurn s).words p = s.words p := by cases p <;> rfl
@[simp] theorem afterTurn_responses (p : Port) (s : State) : (afterTurn s).responses p = s.responses p := by cases p <;> rfl
@[simp] theorem afterTurn_busy (s : State) : (afterTurn s).busy = s.busy := rfl
@[simp] theorem afterTurn_initialized (s : State) : (afterTurn s).initialized = s.initialized := rfl

/-! ### busy and initialized after each -/

@[simp] theorem request_busy (e : Request) (s : State) : (request e s).busy = s.busy := rfl
@[simp] theorem writeData_busy (b : Bool) (s : State) : (writeData b s).busy = s.busy := rfl
@[simp] theorem writeClock_busy (b : Bool) (s : State) : (writeClock b s).busy = s.busy := rfl
@[simp] theorem respondOn_busy (p : Port) (c : ResultCode) (d : Option Word) (s : State) : (respondOn p c d s).busy = s.busy := by cases p <;> rfl
@[simp] theorem raiseError_busy (c : ResultCode) (s : State) : (raiseError c s).busy = s.busy := by simp [raiseError]
@[simp] theorem consume_busy (p : Port) (ws : List Word) (s : State) : (consume p ws s).busy = s.busy := by cases p <;> rfl
@[simp] theorem setWords_busy (p : Port) (ws : List Word) (s : State) : (setWords p ws s).busy = s.busy := by cases p <;> rfl
@[simp] theorem request_initialized (e : Request) (s : State) : (request e s).initialized = s.initialized := rfl
@[simp] theorem writeData_initialized (b : Bool) (s : State) : (writeData b s).initialized = s.initialized := rfl
@[simp] theorem writeClock_initialized (b : Bool) (s : State) : (writeClock b s).initialized = s.initialized := rfl
@[simp] theorem respondOn_initialized (p : Port) (c : ResultCode) (d : Option Word) (s : State) : (respondOn p c d s).initialized = s.initialized := by cases p <;> rfl
@[simp] theorem raiseError_initialized (c : ResultCode) (s : State) : (raiseError c s).initialized = s.initialized := by simp [raiseError]
@[simp] theorem consume_initialized (p : Port) (ws : List Word) (s : State) : (consume p ws s).initialized = s.initialized := by cases p <;> rfl
@[simp] theorem setWords_initialized (p : Port) (ws : List Word) (s : State) : (setWords p ws s).initialized = s.initialized := by cases p <;> rfl

/-! ### the ports by name -/

@[simp] theorem words_h0 (s : State) : s.words .h0 = s.cmd0 := rfl
@[simp] theorem words_h1 (s : State) : s.words .h1 = s.cmd1 := rfl
@[simp] theorem responses_h0 (s : State) : s.responses .h0 = s.rsp0 := rfl
@[simp] theorem responses_h1 (s : State) : s.responses .h1 = s.rsp1 := rfl
@[simp] theorem portPresent_h0 (s : State) : s.portPresent .h0 = true := rfl
@[simp] theorem portPresent_h1 (s : State) : s.portPresent .h1 = s.cfg.concurrentHost := rfl
@[simp] theorem portTakes_h0 (s : State) : s.portTakes .h0 = !s.busy := rfl
@[simp] theorem portTakes_h1 (s : State) : s.portTakes .h1 = true := rfl

/-- A response is added to its own port's list. -/
theorem respondOn_responses (p q : Port) (c : ResultCode) (d : Option Word) (s : State) :
    (respondOn p c d s).responses q =
      if q = p then s.responses q ++ [{ status := c, data := d }] else s.responses q := by
  cases p <;> cases q <;> rfl

/-- Consuming leaves the other port's words alone. -/
theorem consume_words (p q : Port) (ws : List Word) (s : State) :
    (consume p ws s).words q = if q = p then ws else s.words q := by
  cases p <;> cases q <;> rfl

end Sys2Proof.Machine
end

