-- ==== Sys2Proof/Laws/Memory.lean ====
section
/-! SUPPORT. The laws of the pixel buffer: read after write, the canonical form kept by every memory operation, and
equal reads make equal buffers. -/

namespace Sys2Proof.Machine

@[simp] theorem memLookup_nil (k : Nat) : memLookup [] k = 0#24 := rfl

theorem memLookup_cons (a : Nat) (v : Pixel) (m : Memory) (k : Nat) :
    memLookup ((a, v) :: m) k = if a = k then v else memLookup m k := rfl

@[simp] theorem Memory.wf_nil : Memory.wf [] = true := rfl

/-- The canonical form of a list is its head's and its tail's. -/
theorem Memory.wf_cons_iff (a : Nat) (v : Pixel) (m : Memory) :
    Memory.wf ((a, v) :: m) = true ↔ v ≠ 0#24 ∧ (∀ c ∈ m, a < c.1) ∧ Memory.wf m = true := by
  simp only [Memory.wf, Bool.and_eq_true, decide_eq_true_eq, List.all_eq_true]
  tauto

/-- An index below every listed one reads as 0. -/
theorem memLookup_eq_zero_of_lt (m : Memory) (k : Nat) (h : ∀ c ∈ m, k < c.1) : memLookup m k = 0#24 := by
  induction m with
  | nil => rfl
  | cons c m ih =>
    obtain ⟨a, v⟩ := c
    have ha : k < a := h (a, v) List.mem_cons_self
    rw [memLookup_cons, if_neg (by omega)]
    exact ih fun c hc => h c (List.mem_cons_of_mem _ hc)

/-- The indices of a written buffer are the old ones and the written one. -/
theorem memInsert_index (m : Memory) (k : Nat) (v : Pixel) (c : Nat × Pixel) (h : c ∈ memInsert m k v) :
    c ∈ m ∨ c.1 = k := by
  induction m with
  | nil =>
    simp only [memInsert] at h
    split at h
    · cases h
    · rw [List.mem_singleton] at h; exact .inr (h ▸ rfl)
  | cons d m ih =>
    obtain ⟨a, x⟩ := d
    simp only [memInsert] at h
    split at h
    · split at h
      · exact .inl h
      · rcases List.mem_cons.1 h with rfl | h
        · exact .inr rfl
        · exact .inl h
    · split at h
      · split at h
        · exact .inl (List.mem_cons_of_mem _ h)
        · rcases List.mem_cons.1 h with rfl | h
          · exact .inr rfl
          · exact .inl (List.mem_cons_of_mem _ h)
      · rcases List.mem_cons.1 h with rfl | h
        · exact .inl List.mem_cons_self
        · exact (ih h).imp_left (List.mem_cons_of_mem _)

/-- A write keeps the canonical form. -/
theorem memInsert_wf (m : Memory) (k : Nat) (v : Pixel) (h : Memory.wf m = true) :
    Memory.wf (memInsert m k v) = true := by
  induction m with
  | nil =>
    simp only [memInsert]
    split
    · rfl
    · rename_i hv
      exact (Memory.wf_cons_iff k v []).2 ⟨hv, by simp, rfl⟩
  | cons c m ih =>
    obtain ⟨a, x⟩ := c
    obtain ⟨hx, hlt, hm⟩ := (Memory.wf_cons_iff a x m).1 h
    simp only [memInsert]
    split
    · split
      · exact h
      · rename_i hka hv
        refine (Memory.wf_cons_iff _ _ _).2 ⟨hv, ?_, h⟩
        intro c hc
        rcases List.mem_cons.1 hc with rfl | hc
        · exact hka
        · exact lt_trans hka (hlt c hc)
    · split
      · split
        · exact hm
        · rename_i _ hka hv
          exact (Memory.wf_cons_iff _ _ _).2 ⟨hv, fun c hc => hka ▸ hlt c hc, hm⟩
      · refine (Memory.wf_cons_iff _ _ _).2 ⟨hx, ?_, ih hm⟩
        intro c hc
        rcases memInsert_index m k v c hc with hc | hc
        · exact hlt c hc
        · omega

/-- Reading the written element gives the value written. -/
theorem memLookup_memInsert_self (m : Memory) (k : Nat) (v : Pixel) (h : Memory.wf m = true) :
    memLookup (memInsert m k v) k = v := by
  induction m with
  | nil =>
    simp only [memInsert]
    split
    · rename_i hv; exact hv.symm
    · simp [memLookup]
  | cons c m ih =>
    obtain ⟨a, x⟩ := c
    obtain ⟨-, hlt, hm⟩ := (Memory.wf_cons_iff a x m).1 h
    simp only [memInsert]
    split
    · rename_i hka
      split
      · rename_i hv
        rw [hv]
        refine memLookup_eq_zero_of_lt _ _ fun c hc => ?_
        rcases List.mem_cons.1 hc with rfl | hc
        · exact hka
        · exact lt_trans hka (hlt c hc)
      · simp [memLookup]
    · split
      · rename_i hka
        split
        · rename_i hv
          rw [hv]
          exact memLookup_eq_zero_of_lt _ _ fun c hc => hka ▸ hlt c hc
        · simp [memLookup]
      · rename_i hka
        rw [memLookup_cons, if_neg (by omega), ih hm]

/-- A write leaves every other element alone. -/
theorem memLookup_memInsert_of_ne (m : Memory) (k j : Nat) (v : Pixel) (hj : j ≠ k) :
    memLookup (memInsert m k v) j = memLookup m j := by
  induction m with
  | nil =>
    simp only [memInsert]
    split
    · rfl
    · rw [memLookup_cons, if_neg hj.symm]
  | cons c m ih =>
    obtain ⟨a, x⟩ := c
    simp only [memInsert]
    split
    · split
      · rfl
      · rw [memLookup_cons, if_neg hj.symm]
    · split
      · rename_i hka
        subst hka
        split
        · rw [memLookup_cons, if_neg hj.symm]
        · rw [memLookup_cons, memLookup_cons, if_neg hj.symm, if_neg hj.symm]
      · rw [memLookup_cons, memLookup_cons, ih]

/-- The listed indices stay below a bound that the written one is below. -/
theorem memInsert_all_lt (m : Memory) (k n : Nat) (v : Pixel) (hm : ∀ c ∈ m, c.1 < n) (hk : k < n) :
    ∀ c ∈ memInsert m k v, c.1 < n := fun c hc =>
  (memInsert_index m k v c hc).elim (hm c) fun h => h ▸ hk

/-- A listed element of a canonical buffer is what its index reads as, and is not 0. -/
theorem memLookup_of_mem (m : Memory) (h : Memory.wf m = true) (c : Nat × Pixel) (hc : c ∈ m) :
    memLookup m c.1 = c.2 ∧ c.2 ≠ 0#24 := by
  induction m with
  | nil => cases hc
  | cons d m ih =>
    obtain ⟨a, x⟩ := d
    obtain ⟨hx, hlt, hm⟩ := (Memory.wf_cons_iff a x m).1 h
    rcases List.mem_cons.1 hc with rfl | hc
    · exact ⟨by simp [memLookup], hx⟩
    · have := hlt c hc
      rw [memLookup_cons, if_neg (by omega)]
      exact ih hm hc

/-- Canonical buffers that read alike are equal. -/
theorem Memory.wf_ext (m n : Memory) (hm : Memory.wf m = true) (hn : Memory.wf n = true)
    (h : ∀ k, memLookup m k = memLookup n k) : m = n := by
  induction m generalizing n with
  | nil =>
    cases n with
    | nil => rfl
    | cons d n =>
      have hd := memLookup_of_mem _ hn d List.mem_cons_self
      exact absurd ((hd.1.symm.trans (h d.1).symm).trans rfl) hd.2
  | cons c m ih =>
    obtain ⟨a, x⟩ := c
    obtain ⟨hx, ha, hm'⟩ := (Memory.wf_cons_iff a x m).1 hm
    cases n with
    | nil => exact absurd ((h a).symm.trans (by simp [memLookup])).symm hx
    | cons d n =>
      obtain ⟨b, y⟩ := d
      obtain ⟨hy, hb, hn'⟩ := (Memory.wf_cons_iff b y n).1 hn
      have hab : a = b := by
        rcases lt_trichotomy a b with hlt | rfl | hlt
        · exfalso
          have e := h a
          rw [memLookup_cons, if_pos rfl, memLookup_eq_zero_of_lt] at e
          · exact hx e
          · intro c hc
            rcases List.mem_cons.1 hc with rfl | hc
            · exact hlt
            · exact lt_trans hlt (hb c hc)
        · rfl
        · exfalso
          have e := h b
          rw [memLookup_cons b y, if_pos rfl, memLookup_eq_zero_of_lt] at e
          · exact hy e.symm
          · intro c hc
            rcases List.mem_cons.1 hc with rfl | hc
            · exact hlt
            · exact lt_trans hlt (ha c hc)
      subst hab
      have hxy : x = y := by simpa [memLookup] using h a
      subst hxy
      congr 1
      refine ih n hm' hn' fun k => ?_
      by_cases hk : a = k
      · subst hk
        rw [memLookup_eq_zero_of_lt m a ha, memLookup_eq_zero_of_lt n a hb]
      · simpa [memLookup, hk] using h k

/-- Everything `memRead` can answer. -/
theorem memRead_eq_some_iff (k : Word) (s : State) (v : Pixel) :
    memRead k s = some v ↔ s.mode ≠ .uninit ∧ k < s.N ∧ memLookup s.buf k.toNat = v := by
  unfold memRead State.elementDefined
  simp only [Bool.and_eq_true, decide_eq_true_eq]
  split
  · rename_i h
    simp [h.1, h.2]
  · rename_i h
    simp only [reduceCtorEq, false_iff]
    exact fun h' => h ⟨h'.1, h'.2.1⟩

/-- Everything `memWrite` can answer. -/
theorem memWrite_eq_some_iff (k : Word) (v : Pixel) (s s' : State) :
    memWrite k v s = some s' ↔
      s.mode ≠ .uninit ∧ k < s.N ∧ s' = { s with buf := memInsert s.buf k.toNat v } := by
  unfold memWrite State.elementDefined
  simp only [Bool.and_eq_true, decide_eq_true_eq]
  split
  · rename_i h
    simp [h.1, h.2, eq_comm]
  · rename_i h
    simp only [reduceCtorEq, false_iff]
    exact fun h' => h ⟨h'.1, h'.2.1⟩

/-- A write keeps the canonical form of the machine's buffer. -/
theorem memWrite_wf (k : Word) (v : Pixel) (s s' : State) (hs : Memory.wf s.buf = true)
    (h : memWrite k v s = some s') : Memory.wf s'.buf = true := by
  obtain ⟨-, -, rfl⟩ := (memWrite_eq_some_iff k v s s').1 h
  exact memInsert_wf _ _ _ hs

/-- The buffer of the reset state has the canonical form. -/
theorem reset_buffer_wf : Memory.wf State.reset.buf = true := rfl

end Sys2Proof.Machine
end

