-- ==== Sys2Proof/Laws/PerInstr.lean ====
section
/-! SUPPORT. Statements about every instruction as syntax, one lemma a constructor. EncodeShape: an encoded command is as
long as R74's table says by its `OPC` alone, its header has `RSV = 0`, and its operands follow in order. -/

namespace Sys2Proof.Laws.EncodeShape

def Statement (i : Instr) : Prop :=
  (encode i).length = commandWords (opcodeField (headerWord i)) ∧ reservedField (headerWord i) = 0#24 ∧
    (encode i).tail = i.operands

theorem init (count : Word) : Statement (.init count) := ⟨rfl, by simp only [headerWord]; decide, rfl⟩
theorem setpx (index color : Word) : Statement (.setpx index color) := ⟨rfl, by simp only [headerWord]; decide, rfl⟩
theorem setrgb (index r g b : Word) : Statement (.setrgb index r g b) := ⟨rfl, by simp only [headerWord]; decide, rfl⟩
theorem clear : Statement .clear := ⟨rfl, by simp only [headerWord]; decide, rfl⟩
theorem showGrid : Statement .showGrid := ⟨rfl, by simp only [headerWord]; decide, rfl⟩
theorem getpx (index : Word) : Statement (.getpx index) := ⟨rfl, by simp only [headerWord]; decide, rfl⟩

end Sys2Proof.Laws.EncodeShape
end

