-- ==== Sys2Proof/Laws/Step.lean ====
section
/-! SUPPORT. What a command, a phase step, a turn and a step can do, said once each. -/

namespace Sys2Proof.Machine

theorem initialized_iff (s : State) : s.initialized = true ↔ s.mode = .idle ∨ s.mode = .tx := by
  simp [State.initialized]

theorem busy_iff (s : State) : s.busy = true ↔ s.mode = .initializing ∨ s.mode = .tx := by
  simp [State.busy]

theorem mode_ne_uninit_of_initialized (s : State) (h : s.initialized = true) : s.mode ≠ .uninit := by
  rcases (initialized_iff s).1 h with h | h <;> simp [h]

/-- Everything the body shared by SETPX and SETRGB can do. -/
theorem storePixel_cases (k : Word) (v : Pixel) (s : State) :
    (s.initialized = false ∧ storePixel k v s = .next (raiseError .notInitialized s)) ∨
      (s.initialized = true ∧ s.N ≤ k ∧ storePixel k v s = .next (raiseError .outOfRange s)) ∨
      (s.initialized = true ∧ k < s.N ∧
        storePixel k v s = .next (respondOk none { s with buf := memInsert s.buf k.toNat v })) := by
  unfold storePixel
  by_cases hi : s.initialized = false
  · exact .inl ⟨hi, by rw [if_pos hi]⟩
  · have hi' : s.initialized = true := by simpa using hi
    rw [if_neg hi]
    by_cases hk : s.N ≤ k
    · exact .inr (.inl ⟨hi', hk, by rw [if_pos hk]⟩)
    · have hk' : k < s.N := BitVec.not_le.1 hk
      have hw := (memWrite_eq_some_iff k v s { s with buf := memInsert s.buf k.toNat v }).2
        ⟨mode_ne_uninit_of_initialized s hi', hk', rfl⟩
      exact .inr (.inr ⟨hi', hk', by rw [if_neg hk, hw]⟩)

/-- Everything GETPX can do. -/
theorem execGetpx_cases (k : Word) (s : State) :
    (s.initialized = false ∧ execGetpx k s = .next (raiseError .notInitialized s)) ∨
      (s.initialized = true ∧ s.N ≤ k ∧ execGetpx k s = .next (raiseError .outOfRange s)) ∨
      (s.initialized = true ∧ k < s.N ∧
        execGetpx k s = .next (respondOk (some ((memLookup s.buf k.toNat).setWidth 32)) s)) := by
  unfold execGetpx
  by_cases hi : s.initialized = false
  · exact .inl ⟨hi, by rw [if_pos hi]⟩
  · have hi' : s.initialized = true := by simpa using hi
    rw [if_neg hi]
    by_cases hk : s.N ≤ k
    · exact .inr (.inl ⟨hi', hk, by rw [if_pos hk]⟩)
    · have hk' : k < s.N := BitVec.not_le.1 hk
      have hr := (memRead_eq_some_iff k s (memLookup s.buf k.toNat)).2
        ⟨mode_ne_uninit_of_initialized s hi', hk', rfl⟩
      exact .inr (.inr ⟨hi', hk', by rw [if_neg hk, hr]⟩)

/-- Everything a command's accept step can do: an error that changes only the result; a buffer command that is done; an
INIT admitted; a SHOW admitted. It always answers a next state. -/
theorem exec_cases (i : Instr) (s : State) :
    (∃ code, code ≠ .ok ∧ exec i s = .next (raiseError code s)) ∨
      (∃ data m, s.initialized = true ∧
        (m = s.buf ∨ m = [] ∨ ∃ k v, k < s.N ∧ m = memInsert s.buf k.toNat v) ∧
        exec i s = .next (respondOk data { s with buf := m })) ∨
      (∃ count, i = .init count ∧ s.mode = .uninit ∧ count ≤ s.cfg.nMax ∧
        exec i s = .next { s with pendCount := count, mode := .initializing, phase := .iSetup,
                                  owner := s.port }) ∨
      (i = .showGrid ∧ s.mode = .idle ∧
        exec i s = .next { s with mode := .tx, phase := .tDlow, owner := s.port }) := by
  cases i with
  | init count =>
    simp only [exec, execInit]
    split
    · exact .inl ⟨_, by decide, rfl⟩
    · rename_i hb
      split
      · exact .inl ⟨_, by decide, rfl⟩
      · rename_i hm
        split
        · exact .inl ⟨_, by decide, rfl⟩
        · rename_i hc
          refine .inr (.inr (.inl ⟨count, rfl, ?_, BitVec.not_lt.1 hc, rfl⟩))
          rw [busy_iff] at hb
          cases h : s.mode <;> simp_all
  | setpx k c =>
    rcases storePixel_cases k (colorPixel c) s with ⟨-, h⟩ | ⟨-, -, h⟩ | ⟨hi, hk, h⟩
    · exact .inl ⟨_, by decide, h⟩
    · exact .inl ⟨_, by decide, h⟩
    · exact .inr (.inl ⟨_, _, hi, .inr (.inr ⟨k, _, hk, rfl⟩), h⟩)
  | setrgb k r g b =>
    rcases storePixel_cases k (channelsPixel r g b) s with ⟨-, h⟩ | ⟨-, -, h⟩ | ⟨hi, hk, h⟩
    · exact .inl ⟨_, by decide, h⟩
    · exact .inl ⟨_, by decide, h⟩
    · exact .inr (.inl ⟨_, _, hi, .inr (.inr ⟨k, _, hk, rfl⟩), h⟩)
  | clear =>
    simp only [exec, execClear]
    split
    · exact .inl ⟨_, by decide, rfl⟩
    · rename_i hi
      exact .inr (.inl ⟨_, _, by simpa using hi, .inr (.inl rfl), rfl⟩)
  | showGrid =>
    simp only [exec, execShowGrid]
    split
    · exact .inl ⟨_, by decide, rfl⟩
    · rename_i hb
      split
      · exact .inl ⟨_, by decide, rfl⟩
      · rename_i hm
        refine .inr (.inr (.inr ⟨trivial, ?_, rfl⟩))
        rw [busy_iff] at hb
        cases h : s.mode <;> simp_all
  | getpx k =>
    rcases execGetpx_cases k s with ⟨-, h⟩ | ⟨-, -, h⟩ | ⟨hi, -, h⟩
    · exact .inl ⟨_, by decide, h⟩
    · exact .inl ⟨_, by decide, h⟩
    · exact .inr (.inl ⟨_, s.buf, hi, .inl rfl, h⟩)

/-- A command's accept step always answers a next state. -/
theorem exec_next (i : Instr) (s : State) : ∃ s', exec i s = .next s' := by
  rcases exec_cases i s with ⟨_, -, h⟩ | ⟨_, _, -, -, h⟩ | ⟨_, -, -, -, h⟩ | ⟨-, -, h⟩ <;> exact ⟨_, h⟩

/-- Everything an accept step at a port can do. -/
theorem acceptCommand_cases (p : Port) (s : State) :
    (decode (s.words p) = .incomplete ∧ acceptCommand p s = .next s) ∨
      (∃ why rest, decode (s.words p) = .bad why rest ∧
        acceptCommand p s = .next (raiseError .badCommand (consume p rest s))) ∨
      (∃ i rest, decode (s.words p) = .command i rest ∧ acceptCommand p s = exec i (consume p rest s)) := by
  unfold acceptCommand
  cases h : decode (s.words p) with
  | incomplete => exact .inl ⟨rfl, rfl⟩
  | bad why rest => exact .inr (.inl ⟨why, rest, rfl, rfl⟩)
  | command i rest => exact .inr (.inr ⟨i, rest, rfl, rfl⟩)

/-- Everything the data write of a frame bit can do. -/
theorem phaseTBitD_cases (s : State) :
    (24#5 < s.bitIdx ∧ phaseTBitD s = .fault .noFrameBit) ∨
      (s.bitIdx = 24#5 ∧ (s.mode = .uninit ∨ s.N ≤ s.pixIdx) ∧ phaseTBitD s = .fault .noElement) ∨
      (s.bitIdx = 24#5 ∧ s.mode ≠ .uninit ∧ s.pixIdx < s.N ∧
        phaseTBitD s = .next (sendBit { s with shreg := frame (memLookup s.buf s.pixIdx.toNat) })) ∨
      (s.bitIdx < 24#5 ∧ phaseTBitD s = .next (sendBit s)) := by
  unfold phaseTBitD loadFrame
  by_cases h1 : 24#5 < s.bitIdx
  · exact .inl ⟨h1, by rw [if_pos h1]⟩
  rw [if_neg h1]
  by_cases h2 : s.bitIdx = 24#5
  · rw [if_pos h2]
    cases hr : memRead s.pixIdx s with
    | some v =>
      obtain ⟨hm, hk, rfl⟩ := (memRead_eq_some_iff _ _ _).1 hr
      exact .inr (.inr (.inl ⟨h2, hm, hk, rfl⟩))
    | none =>
      refine .inr (.inl ⟨h2, ?_, rfl⟩)
      by_contra hc
      rw [not_or, BitVec.not_le] at hc
      rw [(memRead_eq_some_iff s.pixIdx s _).2 ⟨hc.1, hc.2, rfl⟩] at hr
      cases hr
  · rw [if_neg h2]
    refine .inr (.inr (.inr ⟨?_, rfl⟩))
    bv_omega

/-- A phase step moves nothing but the sequencer and its answer. -/
theorem phaseStep_keeps (a : Answer) (s s' : State) (h : phaseStep a s = .next s') :
    s'.cfg = s.cfg ∧ s'.pendCount = s.pendCount ∧ s'.cmd0 = s.cmd0 ∧ s'.cmd1 = s.cmd1 ∧ s'.port = s.port ∧
      s'.owner = s.owner ∧ s'.turns = s.turns := by
  unfold phaseStep at h
  split at h
  case h_8 =>
    rcases phaseTBitD_cases s with ⟨-, e⟩ | ⟨-, -, e⟩ | ⟨-, -, -, e⟩ | ⟨-, e⟩ <;> rw [e] at h <;> cases h <;>
      simp [sendBit]
  case h_2 => cases h; cases a <;> simp [phaseISetup, initFail]
  case h_3 => cases h; cases a <;> simp [phaseICfgD, initFail]
  case h_4 => cases h; cases a <;> simp [phaseICfgC, initFail, initSucceed]
  case h_5 => cases h; unfold phaseTDlow; split <;> simp
  case h_7 => cases h; unfold phaseTPreLo; split <;> simp
  case h_10 => cases h; unfold phaseTBitLo; split <;> [skip; split] <;> simp
  case h_11 => cases h; unfold phaseTBlkDlow; split <;> simp
  case h_13 => cases h; unfold phaseTBlkLo; split <;> simp
  all_goals cases h; simp [phaseTPreHi, phaseTBitHi, phaseTBlkHi, phaseTSettle]

/-- A phase step in phase NONE does nothing. -/
@[simp] theorem phaseStep_noPhase (a : Answer) (s : State) (h : s.phase = .noPhase) :
    phaseStep a s = .next s := by
  simp [phaseStep, h]

/-- A step with a turn listed is that turn, with the turn used up. -/
theorem step_of_turn (s : State) (t : Turn) (ts : List Turn) (h : s.turns = t :: ts) :
    step s = takeTurn t { s with turns := ts } := by
  simp [step, h]

/-- A step with no turn listed is the sequencer's own. -/
theorem step_of_no_turn (s : State) (h : s.turns = []) : step s = idleTurn s := by
  simp [step, h]

theorem commandReady_iff (s : State) (p : Port) :
    s.commandReady p = true ↔ s.portTakes p = true ∧ decode (s.words p) ≠ .incomplete := by
  simp [State.commandReady]

/-- Everything the sequencer's own step can be. -/
theorem idleTurn_cases (s : State) :
    idleTurn s = .next s ∨ idleTurn s = acceptCommand .h0 s ∧ s.busy = false ∨
      idleTurn s = acceptCommand .h1 s ∧ s.cfg.concurrentHost = true ∧ s.commandReady .h0 = false := by
  unfold idleTurn
  split
  · rename_i h
    exact .inr (.inl ⟨rfl, by simpa using ((commandReady_iff s .h0).1 h).1⟩)
  · rename_i hr
    split
    · rename_i h
      exact .inr (.inr ⟨rfl, h, by simpa using hr⟩)
    · exact .inl rfl

/-- Everything an accept turn can be. -/
theorem acceptTurn_cases (p : Port) (s : State) :
    (s.portPresent p = false ∧ acceptTurn p s = .refused .portAbsent) ∨
      (s.portTakes p = false ∧ acceptTurn p s = .next s) ∨
      (s.portPresent p = true ∧ s.portTakes p = true ∧ acceptTurn p s = acceptCommand p s) := by
  unfold acceptTurn
  split
  · rename_i h; exact .inl ⟨h, rfl⟩
  · rename_i h
    split
    · rename_i h'; exact .inr (.inl ⟨h', rfl⟩)
    · rename_i h'; exact .inr (.inr ⟨by simpa using h, by simpa using h', rfl⟩)

/-- Everything a host's turn can be. -/
theorem hostTurn_cases (p : Port) (w : Word) (s : State) :
    (s.portPresent p = false ∧ hostTurn p w s = .refused .portAbsent) ∨
      (s.portPresent p = true ∧ hostTurn p w s = .next (setWords p (s.words p ++ [w]) s)) := by
  unfold hostTurn
  split
  · rename_i h; exact .inl ⟨h, rfl⟩
  · rename_i h; exact .inr ⟨by simpa using h, rfl⟩

theorem afterTurn_of_turn (s : State) (t : Turn) (ts : List Turn) (h : s.turns = t :: ts) :
    afterTurn s = { s with turns := ts } := by
  simp [afterTurn, h]

theorem afterTurn_of_no_turn (s : State) (h : s.turns = []) : afterTurn s = s := by
  cases s; simp_all [afterTurn]

/-- Everything a step that answers a next state can be: nothing but the turn used up; a host's word; a bad command
answered; a command run; a phase step; reset. -/
theorem step_cases (s s' : State) (h : step s = .next s') :
    (s' = afterTurn s ∧ s.turns.head? ≠ some .reset) ∨
      (∃ p w, s.turns.head? = some (.host p w) ∧ s.portPresent p = true ∧
        s' = setWords p (s.words p ++ [w]) (afterTurn s)) ∨
      (∃ p why rest, AcceptsAt s p ∧ decode (s.words p) = .bad why rest ∧
        s' = raiseError .badCommand (consume p rest (afterTurn s))) ∨
      (∃ p i rest, AcceptsAt s p ∧ decode (s.words p) = .command i rest ∧
        exec i (consume p rest (afterTurn s)) = .next s') ∨
      (∃ a, s.turns.head? = some (.take a) ∧ s.phase ≠ .noPhase ∧ phaseStep a (afterTurn s) = .next s') ∨
      (s.turns.head? = some .reset ∧ s' = resetBlock (afterTurn s)) := by
  cases ht : s.turns with
  | nil =>
    rw [step_of_no_turn s ht] at h
    rw [afterTurn_of_no_turn s ht]
    have accept : ∀ p, acceptCommand p s = .next s' →
        s' = s ∨ (∃ why rest, decode (s.words p) = .bad why rest ∧
          s' = raiseError .badCommand (consume p rest s)) ∨
        ∃ i rest, decode (s.words p) = .command i rest ∧ exec i (consume p rest s) = .next s' := by
      intro p e
      rcases acceptCommand_cases p s with ⟨-, a⟩ | ⟨why, rest, d, a⟩ | ⟨i, rest, d, a⟩ <;> rw [a] at e
      · exact .inl (by cases e; rfl)
      · exact .inr (.inl ⟨why, rest, d, by cases e; rfl⟩)
      · exact .inr (.inr ⟨i, rest, d, e⟩)
    rcases idleTurn_cases s with e | ⟨e, hb⟩ | ⟨e, hc, hr⟩ <;> rw [e] at h
    · exact .inl ⟨by cases h; rfl, by simp⟩
    · have at0 : AcceptsAt s .h0 := ⟨rfl, by simp [hb], .inr ⟨ht, by simp⟩⟩
      rcases accept .h0 h with rfl | ⟨why, rest, d, r⟩ | ⟨i, rest, d, r⟩
      · exact .inl ⟨rfl, by simp⟩
      · exact .inr (.inr (.inl ⟨.h0, why, rest, at0, d, r⟩))
      · exact .inr (.inr (.inr (.inl ⟨.h0, i, rest, at0, d, r⟩)))
    · have at1 : AcceptsAt s .h1 := ⟨hc, rfl, .inr ⟨ht, fun _ => hr⟩⟩
      rcases accept .h1 h with rfl | ⟨why, rest, d, r⟩ | ⟨i, rest, d, r⟩
      · exact .inl ⟨rfl, by simp⟩
      · exact .inr (.inr (.inl ⟨.h1, why, rest, at1, d, r⟩))
      · exact .inr (.inr (.inr (.inl ⟨.h1, i, rest, at1, d, r⟩)))
  | cons t ts =>
    rw [step_of_turn s t ts ht, ← afterTurn_of_turn s t ts ht] at h
    have hw : ∀ p, (afterTurn s).words p = s.words p := fun p => by cases p <;> rfl
    have hp : ∀ p, (afterTurn s).portPresent p = s.portPresent p := fun p => by cases p <;> rfl
    have hk : ∀ p, (afterTurn s).portTakes p = s.portTakes p := fun p => by cases p <;> rfl
    cases t with
    | host p w =>
      rcases hostTurn_cases p w (afterTurn s) with ⟨-, e⟩ | ⟨hp', e⟩ <;> simp only [takeTurn] at h <;>
        rw [e] at h <;> cases h
      exact .inr (.inl ⟨p, w, rfl, by rw [← hp]; exact hp', by rw [hw]⟩)
    | accept p =>
      rcases acceptTurn_cases p (afterTurn s) with ⟨-, e⟩ | ⟨-, e⟩ | ⟨hp', hk', e⟩ <;>
        simp only [takeTurn] at h <;> rw [e] at h
      · cases h
      · exact .inl ⟨by cases h; rfl, by simp⟩
      · rw [hp] at hp'
        rw [hk] at hk'
        rcases acceptCommand_cases p (afterTurn s) with ⟨-, a⟩ | ⟨why, rest, d, a⟩ | ⟨i, rest, d, a⟩ <;>
          rw [a] at h
        · exact .inl ⟨by cases h; rfl, by simp⟩
        · rw [hw] at d
          exact .inr (.inr (.inl ⟨p, why, rest, ⟨hp', hk', .inl (by simp [ht])⟩, d, by cases h; rfl⟩))
        · rw [hw] at d
          exact .inr (.inr (.inr (.inl ⟨p, i, rest, ⟨hp', hk', .inl (by simp [ht])⟩, d, h⟩)))
    | take a =>
      by_cases hn : s.phase = .noPhase
      · simp only [takeTurn] at h
        rw [phaseStep_noPhase a (afterTurn s) hn] at h
        exact .inl ⟨by cases h; rfl, by simp⟩
      · exact .inr (.inr (.inr (.inr (.inl ⟨a, rfl, hn, h⟩))))
    | reset => exact .inr (.inr (.inr (.inr (.inr ⟨rfl, by cases h; rfl⟩))))

@[simp] theorem steps_zero (s : State) : steps 0 s = .next s := rfl

/-- The first of `n + 1` steps, when it answers a next state. -/
theorem steps_succ_of_next (n : Nat) (s s' : State) (h : step s = .next s') : steps (n + 1) s = steps n s' := by
  simp [steps, h]

/-- `m + n` steps are `m` steps and then `n` more. -/
theorem steps_add (m n : Nat) (s s' : State) (h : steps m s = .next s') : steps (m + n) s = steps n s' := by
  induction m generalizing s with
  | zero => cases h; simp
  | succ m ih =>
    rw [show m + 1 + n = m + n + 1 by omega]
    cases e : step s with
    | next t =>
      rw [steps_succ_of_next _ _ _ e] at h ⊢
      exact ih t h
    | fault r => simp [steps, e] at h
    | refused r => simp [steps, e] at h

/-- `steps` is the host's run of the machine. -/
theorem steps_eq_run (n : Nat) (s : State) : steps n s = Host.Core.run Sys2Proof.core n s := by
  induction n generalizing s with
  | zero => rfl
  | succ n ih =>
    have e : Sys2Proof.core.step s = step s := rfl
    simp only [steps, Host.Core.run, e]
    cases step s with
    | next t => exact ih t
    | fault r => rfl
    | refused r => rfl

end Sys2Proof.Machine
end

