-- ==== Sys2Proof/Laws/Safety.lean ====
section
/-! SUPPORT. What the invariant depends on, what a response does, and the order of two pulse counts. -/

namespace Sys2Proof.Machine

/-- The invariant looks at the parameters and at eleven elements only. -/
theorem inv_congr (s t : State) (hc : t.cfg = s.cfg) (hm : t.mode = s.mode) (hn : t.N = s.N)
    (hb : t.buf = s.buf) (hp : t.phase = s.phase) (hd : t.pendCount = s.pendCount)
    (hu : t.pulseCnt = s.pulseCnt) (hx : t.pixIdx = s.pixIdx) (hi : t.bitIdx = s.bitIdx)
    (hs : t.shreg = s.shreg) (hl : t.dataLvl = s.dataLvl) (hk : t.clkLvl = s.clkLvl) (h : Inv s) : Inv t := by
  have e : t.initialized = s.initialized := by simp [State.initialized, hm]
  unfold Inv bufferFits countFits countersFit dataLevelFits clockLevelFits linesUnwritten at *
  rw [e, hc, hm, hn, hb, hp, hd, hu, hx, hi, hs, hl, hk]
  exact h

/-- A response on a port, seen against any state with the same response lists. -/
theorem responded_respondOn (p : Port) (c : ResultCode) (d : Option Word) (s u : State)
    (h0 : u.rsp0 = s.rsp0) (h1 : u.rsp1 = s.rsp1) : Responded p c d s (respondOn p c d u) := by
  refine ⟨respondOn_status p c d u, ?_, ?_⟩
  · cases p <;> simp [h0, h1]
  · intro q hq
    cases p <;> cases q <;> simp_all

/-- Consuming a command changes nothing but its port's words and the noted port. -/
theorem consume_sameButInput (p : Port) (rest : List Word) (s : State) : SameButInput s (consume p rest s) := by
  simp [SameButInput]

/-- A host's word changes nothing but its port's words. -/
theorem setWords_sameButInput (p : Port) (ws : List Word) (s : State) : SameButInput s (setWords p ws s) := by
  simp [SameButInput]

/-- One response is one code and one data word. -/
theorem responded_unique (p : Port) (c c' : ResultCode) (d d' : Option Word) (s s' : State)
    (h : Responded p c d s s') (h' : Responded p c' d' s s') : c = c' ∧ d = d' := by
  simpa using h.2.1.symm.trans h'.2.1

/-- Where both response lists stand, there was no response. -/
theorem not_responded (p : Port) (c : ResultCode) (d : Option Word) (s s' : State)
    (h0 : s'.rsp0 = s.rsp0) (h1 : s'.rsp1 = s.rsp1) : ¬ Responded p c d s s' := by
  intro h
  have := h.2.1
  cases p <;> simp [h0, h1] at this

/-- A pulse count below its bound stays below it until it reaches it. -/
theorem pulse_succ_lt (p q : BitVec 16) (h : p < q) (h' : p + 1#16 ≠ q) : p + 1#16 < q := by
  have : (p + 1#16).toNat ≠ q.toNat := fun e => h' (BitVec.eq_of_toNat_eq e)
  bv_omega

end Sys2Proof.Machine
end

