-- ==== Sys2Proof/Tests/Slice0.lean ====
section
/-! SUPPORT. Tests of single steps, with every expected result from spec/ (the section of 95_test_vectors.md or the rule is
named), and for each statement with hypotheses a concrete instance that meets all of them together. -/

namespace Sys2Proof.Tests

open Sys2Proof.Machine

/-! ### Helpers -/

/-- A small instance: P = 1, B = 1, at most 4 elements, two hosts. -/
def smallCfg : Config :=
  { dataPin := 2, clockPin := 3, preamblePulses := 1#16, blankPulses := 1#16, settleMs := 7, nMax := 4#32,
    concurrentHost := true }

/-- The state of `smallCfg` with a mode, a phase, a count and a buffer; everything else as after reset. -/
def small (m : Mode) (p : Phase) (n : Word) (buf : Memory) : State :=
  { State.reset with cfg := smallCfg, mode := m, phase := p, N := n, buf := buf }

/-- IDLE with four elements. -/
def idle4 (buf : Memory) : State := small .idle .noPhase 4#32 buf

/-- TX at a phase, four elements. -/
def tx4 (p : Phase) : State := small .tx p 4#32 [(0, 5#24)]

/-- INITIALIZING at a phase, with a count waiting. -/
def init2 (p : Phase) : State := { small .initializing p 0#32 [] with pendCount := 2#32 }

/-- With a taking as the next turn. -/
def taking (a : Answer) (s : State) : State := { s with turns := [.take a] }

theorem taking_turns (a : Answer) (s : State) : (taking a s).turns = .take a :: [] := rfl

def next? (o : Host.Outcome State Fault Refusal) : Option State :=
  match o with
  | .next s => some s
  | .fault _ => none
  | .refused _ => none

/-- The result of a command: the code and data of its one response on `RSP0`, and the buffer. -/
def result (o : Host.Outcome State Fault Refusal) : Option (List Response × Memory) :=
  (next? o).map fun s => (s.rsp0, s.buf)

/-! ### Well-formedness: each check refuses an ill-formed term -/

theorem test_wf_unknown_mnemonic : (SourceLine.command "FILL" [1]).wf = false := by decide
theorem test_wf_lower_case : (SourceLine.command "init" [1]).wf = false := by decide
theorem test_wf_operand_count : (SourceLine.command "SETPX" [1]).wf = false := by decide
theorem test_wf_operand_too_large : (SourceLine.command "INIT" [4294967296]).wf = false := by decide
theorem test_wf_word_too_large : (SourceLine.word 4294967296).wf = false := by decide
theorem test_wf_line : (SourceLine.command "SETRGB" [5, 300, 0, 4294967295]).wf = true := by decide
theorem test_wf_equal_pins : Config.wf { smallCfg with clockPin := 2 } = false := by decide
theorem test_wf_documented : Config.wf Config.documented = true := by decide

/-! ### Decoding: the words of R70 and R74, bit by bit (95_test_vectors.md 2.1) -/

theorem test_decode_init :
    decode [0b00000000000000000000000000000001#32, 0b00000000000000000000000000000010#32] =
      .command (.init 2#32) [] := by decide
theorem test_decode_setpx :
    decode [0b00000000000000000000000000000010#32, 0b00000000000000000000000000000000#32,
      0b11111111000100100011010001010110#32] = .command (.setpx 0#32 0xFF123456#32) [] := by decide
theorem test_decode_setrgb :
    decode [0b00000000000000000000000000000011#32, 0b00000000000000000000000000000001#32,
      0b00000000000000000000000100101100#32, 0b00000000000000000000000000000000#32,
      0b00000000000000000000000000000111#32] = .command (.setrgb 1#32 300#32 0#32 7#32) [] := by decide
theorem test_decode_clear : decode [0b00000000000000000000000000000100#32] = .command .clear [] := by decide
theorem test_decode_show : decode [0b00000000000000000000000000000101#32] = .command .showGrid [] := by decide
theorem test_decode_getpx :
    decode [0b00000000000000000000000000000110#32, 0b00000000000000000000000000000011#32, 9#32] =
      .command (.getpx 3#32) [9#32] := by decide
theorem test_decode_zero : decode [0b00000000000000000000000000000000#32] = .bad .reservedOpcode [] := by decide
theorem test_decode_seven : decode [0b00000000000000000000000000000111#32] = .bad .reservedOpcode [] := by decide
theorem test_decode_reserved_bits :
    decode [0b10000000000000000000000000000010#32, 0#32, 1#32, 4#32] = .bad .reservedBits [4#32] := by decide
theorem test_decode_show_reserved_bits :
    decode [0b00000000000000000000000100000101#32] = .bad .reservedBits [] := by decide
theorem test_decode_waits : decode [0b00000000000000000000000100000010#32] = .incomplete := by decide
theorem test_decode_rows :
    [1, 2, 3, 4, 5, 6].map (decodeTableWord 32) =
      [some (.init 0#32), some (.setpx 0#32 0#32), some (.setrgb 0#32 0#32 0#32 0#32), some .clear,
        some .showGrid, some (.getpx 0#32)] := by decide

/-- The words of a command by R72's operand order. -/
theorem test_encode_setrgb :
    encode (.setrgb 5#32 300#32 0#32 7#32) = [0x3#32, 0x5#32, 0x12C#32, 0x0#32, 0x7#32] := by decide

/-! ### The assembler (30_encoding.md R79) -/

theorem test_assemble_setrgb :
    assembleText "SETRGB 5, 300, 0, 7".toList = some [0x3#32, 0x5#32, 0x12C#32, 0x0#32, 0x7#32] := by decide
theorem test_assemble_comment :
    assembleText "SETPX 0, 0x010203 ; 0x00000002 0x00000000 0x00010203".toList =
      some [0x2#32, 0x0#32, 0x00010203#32] := by decide
theorem test_assemble_word : assembleText ".word 0x00000107".toList = some [0x107#32] := by decide
theorem test_assemble_refuses_count : assembleText "GETPX 1, 2".toList = none := by decide
theorem test_assemble_refuses_value : assembleText "INIT 4294967296".toList = none := by decide
theorem test_assemble_program :
    assemble "INIT 2\nSHOW ; refresh\nGETPX 0".toList = some [1#32, 2#32, 5#32, 6#32, 0#32] := by decide

/-! ### Operands, frames, responses (95_test_vectors.md 2.4, 2.6; R160, R77) -/

theorem test_channels :
    [channelsPixel 1#32 2#32 3#32, channelsPixel 300#32 2#32 3#32, channelsPixel 256#32 256#32 256#32,
      channelsPixel 0xFFFFFFFF#32 0#32 0#32, channelsPixel 0#32 0#32 1000#32, channelsPixel 0#32 254#32 0#32] =
      [0x010203#24, 0xFF0203#24, 0xFFFFFF#24, 0xFF0000#24, 0x0000FF#24, 0x00FE00#24] := by decide
theorem test_frames :
    [frame 0x000000#24, frame 0x010203#24, frame 0x800001#24, frame 0xABCDEF#24] =
      [0b1000000000000000000000000#25, 0b1000000010000001000000011#25, 0b1100000000000000000000001#25,
        0b1101010111100110111101111#25] := by decide
theorem test_response_words :
    responseWords { status := .ok, data := some 0x010203#32 } = [0x0#32, 0x010203#32] ∧
      responseWords { status := .badCommand, data := none } = [0x5#32] := by decide
theorem test_mode_bits : [Mode.uninit, .initializing, .idle, .tx].map modeBits = [0#2, 1#2, 2#2, 3#2] := by decide

/-! ### One step of each command -/

/-- R91's example: from reset, `INIT 2`. -/
theorem test_init_admitted :
    (next? (exec (.init 2#32) State.reset)).map (fun s => (s.mode, s.phase, s.pendCount, s.trace, s.rsp0)) =
      some (.initializing, .iSetup, 2#32, [], []) := by decide
/-- 95_test_vectors.md 2.2: IDLE, the mode check comes before COUNT's. -/
theorem test_init_already :
    result (exec (.init 0xFFFFFFFF#32) (idle4 [(1, 9#24)])) =
      some ([{ status := .alreadyInitialized, data := none }], [(1, 9#24)]) := by decide
/-- 95_test_vectors.md 2.3. -/
theorem test_setpx_masks :
    result (exec (.setpx 3#32 0xFF123456#32) (idle4 [])) =
      some ([{ status := .ok, data := none }], [(3, 0x123456#24)]) := by decide
/-- 95_test_vectors.md 2.3. -/
theorem test_setpx_out_of_range :
    result (exec (.setpx 4#32 1#32) (idle4 [])) =
      some ([{ status := .outOfRange, data := none }], []) := by decide
/-- 95_test_vectors.md 2.4. -/
theorem test_setrgb_clamps :
    result (exec (.setrgb 0#32 300#32 2#32 3#32) (idle4 [(1, 9#24)])) =
      some ([{ status := .ok, data := none }], [(0, 0xFF0203#24), (1, 9#24)]) := by decide
/-- R80: `SETRGB k, 0, 0, 0` leaves element 0, which is not listed. -/
theorem test_setrgb_zero :
    result (exec (.setrgb 1#32 0#32 0#32 0#32) (idle4 [(0, 7#24), (1, 9#24)])) =
      some ([{ status := .ok, data := none }], [(0, 7#24)]) := by decide
/-- 95_test_vectors.md 2.5. -/
theorem test_clear :
    result (exec .clear (small .idle .noPhase 3#32 [(0, 0x010203#24), (1, 0xFFFFFF#24), (2, 1#24)])) =
      some ([{ status := .ok, data := none }], []) := by decide
/-- 95_test_vectors.md 2.5. -/
theorem test_clear_uninit :
    result (exec .clear State.reset) = some ([{ status := .notInitialized, data := none }], []) := by decide
/-- 95_test_vectors.md 2.5. -/
theorem test_getpx :
    result (exec (.getpx 0#32) (small .idle .noPhase 3#32 [(0, 0x010203#24)])) =
      some ([{ status := .ok, data := some 0x00010203#32 }], [(0, 0x010203#24)]) := by decide
/-- 95_test_vectors.md 2.5: one word, no data. -/
theorem test_getpx_out_of_range :
    result (exec (.getpx 3#32) (small .idle .noPhase 3#32 [(0, 0x010203#24)])) =
      some ([{ status := .outOfRange, data := none }], [(0, 0x010203#24)]) := by decide
/-- R125's example. -/
theorem test_show_admitted :
    (next? (exec .showGrid (idle4 []))).map (fun s => (s.mode, s.phase, s.trace, s.rsp0)) =
      some (.tx, .tDlow, [], []) := by decide
/-- 95_test_vectors.md 2.8: TX, on `CMD1`. -/
theorem test_show_busy :
    (next? (exec .showGrid { tx4 .tPreHi with port := .h1 })).map (fun s => (s.mode, s.phase, s.rsp0, s.rsp1)) =
      some (.tx, .tPreHi, [], [{ status := .busy, data := none }]) := by decide

/-- R132: at bit 24 the frame is loaded and the marker sent. -/
theorem test_bit_d_loads :
    (next? (phaseStep .ok { tx4 .tBitD with bitIdx := 24#5 })).map (fun s => (s.shreg, s.trace, s.dataLvl, s.phase)) =
      some (0b1000000000000000000000101#25, [.write 2 true], .high, .tBitHi) := by decide
/-- R126: the step that loads frame 3 loads element 3, here 0. -/
theorem test_loads_element :
    loadsElement (taking .ok { tx4 .tBitD with bitIdx := 24#5, pixIdx := 3#32 }) = some (3#32, 0#24) := by decide
/-- R134: the incremented index is compared with `N`. -/
theorem test_bit_lo_last_pixel :
    (next? (phaseStep .ok { tx4 .tBitLo with pixIdx := 3#32 })).map (fun s => (s.pixIdx, s.trace, s.phase)) =
      some (4#32, [.write 3 false], .tBlkDlow) := by decide

/-! ### Steps -/

/-- Each row of the opcode table, placed after reset, is what the next step runs (R163, column UNINIT). -/
theorem test_fetch_runs :
    [1, 2, 3, 4, 5, 6].map (fun k =>
      (next? (step (State.reset.withFetchWord 32 k))).map (fun s => (s.mode, s.rsp0.map Response.status, s.cmd0))) =
      [some (.initializing, [], []), some (.uninit, [.notInitialized], []),
        some (.uninit, [.notInitialized], []), some (.uninit, [.notInitialized], []),
        some (.uninit, [.notInitialized], []), some (.uninit, [.notInitialized], [])] := by decide

/-- With no turn listed, a command on `CMD0` is taken; R79's `.word 0x00000107` reports BAD_COMMAND before INIT. -/
theorem test_step_bad_command :
    (next? (step { State.reset with cmd0 := [0x107#32, 4#32] })).map (fun s => (s.cmd0, s.rsp0)) =
      some ([4#32], [{ status := .badCommand, data := none }]) := by decide

/-- R35: a turn at `CMD1` of an instance without it is refused. -/
theorem test_step_port_absent :
    step { State.reset with turns := [.accept .h1] } = .refused .portAbsent := rfl

/-- R190: reset in the middle of a SHOW. -/
theorem test_step_reset :
    (next? (step { tx4 .tBitHi with turns := [.reset, .take .ok], cmd0 := [1#32], trace := [.write 2 false] })).map
        (fun s => (s.mode, s.buf, s.cmd0, s.trace)) =
      some (.uninit, [], [], []) := by decide

/-! ### Witnesses: for each statement with hypotheses, an instance that meets them -/

theorem witness_decoded_command_is_its_encoding :
    decode [6#32, 0xFFFFFFFF#32, 1#32] = .command (.getpx 0xFFFFFFFF#32) [1#32] := by decide

theorem witness_header_selects_command_exactly :
    4 ≤ [0#32, 0#32, 0#32, 0#32].length ∧ opcodeField 0x00000100#32 ∉
        ([0x01#8, 0x02#8, 0x03#8, 0x04#8, 0x05#8, 0x06#8] : List Byte) ∧
      opcodeField 0x00000007#32 ∉ ([0x01#8, 0x02#8, 0x03#8, 0x04#8, 0x05#8, 0x06#8] : List Byte) := by decide

theorem witness_length_fixed :
    decode [4#32, 1#32] = .command .clear [1#32] ∧ decode [0x106#32, 1#32, 2#32] = .bad .reservedBits [2#32] ∧
      (0xFF#8 : Byte) ∉ ([0x01#8, 0x02#8, 0x03#8, 0x04#8, 0x05#8, 0x06#8] : List Byte) := by decide

theorem witness_assembler :
    operandCount "GETPX" ≠ some [1, 2].length ∧ operandCount "Init" ≠ some [1].length ∧
      (∃ n ∈ [0, 4294967296], 2 ^ 32 ≤ n) ∧
      assembleLine (.command "INIT" [4294967295]) = some [1#32, 0xFFFFFFFF#32] := by decide

def acceptState (p : Port) (ws : List Word) : State :=
  match p with
  | .h0 => { idle4 [] with cmd0 := ws, turns := [.accept .h0] }
  | .h1 => { tx4 .tPreHi with cmd1 := ws, turns := [.accept .h1] }

theorem witness_step_runs_turn :
    (acceptState .h0 [4#32, 1#32]).turns = [.accept .h0] ∧ (acceptState .h0 [4#32, 1#32]).portPresent .h0 = true ∧
      (acceptState .h0 [4#32, 1#32]).portTakes .h0 = true ∧
      decode ((acceptState .h0 [4#32, 1#32]).words .h0) = .command .clear [1#32] ∧
      (acceptState .h1 [5#32]).turns = [.accept .h1] ∧ (acceptState .h1 [5#32]).portPresent .h1 = true ∧
      (acceptState .h1 [5#32]).portTakes .h1 = true ∧
      decode ((acceptState .h1 [5#32]).words .h1) = .command .showGrid [] := by decide

theorem witness_step_runs_cmd0 :
    ({ idle4 [] with cmd0 := [5#32] } : State).turns = [] ∧ ({ idle4 [] with cmd0 := [5#32] } : State).busy = false ∧
      decode ({ idle4 [] with cmd0 := [5#32] } : State).cmd0 = .command .showGrid [] := by decide

theorem witness_step_runs_cmd1 :
    ({ tx4 .tPreHi with cmd1 := [4#32] } : State).turns = [] ∧
      ({ tx4 .tPreHi with cmd1 := [4#32] } : State).cfg.concurrentHost = true ∧
      ({ tx4 .tPreHi with cmd1 := [4#32] } : State).busy = true ∧
      ({ idle4 [] with cmd1 := [4#32] } : State).busy = false ∧
      decode ({ idle4 [] with cmd1 := [4#32] } : State).cmd0 = .incomplete ∧
      decode ({ tx4 .tPreHi with cmd1 := [4#32] } : State).cmd1 = .command .clear [] := by decide

/-- A word on each port, and one on a port that is not there. -/
theorem witness_host_turn :
    ({ tx4 .tBitHi with cmd1 := [2#32], turns := [.host .h1 4#32, .reset] } : State).turns = .host .h1 4#32 :: [.reset] ∧
      ({ tx4 .tBitHi with cmd1 := [2#32], turns := [.host .h1 4#32, .reset] } : State).portPresent .h1 = true ∧
      ({ State.reset with turns := [.host .h0 4#32] } : State).turns = .host .h0 4#32 :: [] ∧
      ({ State.reset with turns := [.host .h0 4#32] } : State).portPresent .h0 = true ∧
      ({ State.reset with turns := [.host .h1 4#32] } : State).turns = .host .h1 4#32 :: [] ∧
      ({ State.reset with turns := [.host .h1 4#32] } : State).portPresent .h1 = false := by decide

/-- 95_test_vectors.md 2.1's incomplete word, one operand short, at an accept turn on each port, and with no turn. -/
theorem witness_incomplete :
    ((acceptState .h0 [0x102#32, 0#32]).turns = [.accept .h0] ∧
        (acceptState .h0 [0x102#32, 0#32]).portPresent .h0 = true ∧
        decode ((acceptState .h0 [0x102#32, 0#32]).words .h0) = .incomplete) ∧
      ((acceptState .h1 []).turns = [.accept .h1] ∧ (acceptState .h1 []).portPresent .h1 = true ∧
        decode ((acceptState .h1 []).words .h1) = .incomplete) ∧
      ((idle4 []).turns = [] ∧ decode (idle4 []).cmd0 = .incomplete ∧ decode (idle4 []).cmd1 = .incomplete) ∧
      (({ init2 .iSetup with cmd0 := [5#32], cfg := Config.documented } : State).turns = [] ∧
        ({ init2 .iSetup with cmd0 := [5#32], cfg := Config.documented } : State).busy = true ∧
        ({ init2 .iSetup with cmd0 := [5#32], cfg := Config.documented } : State).cfg.concurrentHost = false) := by decide

theorem witness_placed_command : decodeTableWord 32 6 = some (.getpx 0#32) := by decide

theorem witness_bad_command :
    (acceptState .h0 [0x105#32]).turns = [.accept .h0] ∧ (acceptState .h0 [0x105#32]).portPresent .h0 = true ∧
      (acceptState .h0 [0x105#32]).portTakes .h0 = true ∧ (acceptState .h0 [0x105#32]).words .h0 = [0x105#32] ∧
      reservedField 0x105#32 ≠ 0#24 ∧ commandWords (opcodeField 0x105#32) ≤ 1 ∧
      (acceptState .h1 [0#32, 5#32]).turns = [.accept .h1] ∧ (acceptState .h1 [0#32, 5#32]).portPresent .h1 = true ∧
      (acceptState .h1 [0#32, 5#32]).portTakes .h1 = true ∧
      (acceptState .h1 [0#32, 5#32]).words .h1 = [0#32, 5#32] ∧
      opcodeField 0#32 ∉ ([0x01#8, 0x02#8, 0x03#8, 0x04#8, 0x05#8, 0x06#8] : List Byte) ∧
      commandWords (opcodeField 0#32) ≤ 2 := by decide

/-- The bounds of COUNT at `N_MAX` and one above it, and the other two modes. -/
theorem witness_init_accept :
    (small .uninit .noPhase 0#32 []).mode = .uninit ∧ (4#32 : Word) ≤ smallCfg.nMax ∧
      smallCfg.nMax < (5#32 : Word) ∧ (idle4 []).mode = .idle ∧ (tx4 .tDlow).mode = .tx ∧
      (init2 .iSetup).mode = .initializing := by decide

/-- Each phase of INIT with each answer. -/
theorem witness_init_phases :
    (∀ p ∈ [Phase.iSetup, .iCfgD, .iCfgC], ∀ a ∈ [Answer.ok, .fail],
      (taking a (init2 p)).phase = p ∧ (taking a (init2 p)).turns = .take a :: []) ∧
      Request.cfg (taking .fail (init2 .iCfgC)).cfg.dataPin ≠ .cfg (taking .fail (init2 .iCfgC)).cfg.clockPin := by
  decide

theorem witness_init_run :
    ({ State.reset with turns := [.take .ok, .take .ok, .take .ok, .reset] } : State).mode = .uninit ∧
      (0xFFFFFFFF#32 : Word) ≤ State.reset.cfg.nMax ∧
      ({ State.reset with turns := [.take .ok, .take .ok, .take .ok, .reset] } : State).turns =
        .take .ok :: .take .ok :: .take .ok :: [.reset] := by decide

/-- `oks` at both ends of its range. -/
theorem witness_init_failure_run :
    State.reset.mode = .uninit ∧ (0#32 : Word) ≤ State.reset.cfg.nMax ∧ (0 : Nat) ≤ 2 ∧
      ({ State.reset with turns := [.take .fail] } : State).turns =
        List.replicate 0 (.take .ok) ++ .take .fail :: [] ∧
      ({ State.reset with turns := [.take .ok, .take .ok, .take .fail] } : State).turns =
        List.replicate 2 (.take .ok) ++ .take .fail :: [] := by decide

/-- SETPX, SETRGB, GETPX and the read back: the last index and the first one past it, and every mode. -/
theorem witness_buffer_commands :
    Memory.wf (idle4 [(0, 7#24), (3, 1#24)]).buf = true ∧ (idle4 [(0, 7#24), (3, 1#24)]).mode = .idle ∧
      (3#32 : Word) < (idle4 [(0, 7#24), (3, 1#24)]).N ∧ (idle4 [(0, 7#24), (3, 1#24)]).N ≤ (4#32 : Word) ∧
      Memory.wf (tx4 .tPreHi).buf = true ∧ (tx4 .tPreHi).mode = .tx ∧ (0#32 : Word) < (tx4 .tPreHi).N ∧
      (tx4 .tPreHi).N ≤ (0xFFFFFFFF#32 : Word) ∧ Memory.wf State.reset.buf = true ∧ State.reset.mode = .uninit ∧
      Memory.wf (init2 .iCfgD).buf = true ∧ (init2 .iCfgD).mode = .initializing := by decide

theorem witness_clear_loop :
    Inv (idle4 [(0, 7#24), (3, 1#24)]) ∧ (idle4 [(0, 7#24), (3, 1#24)]).initialized = true := by decide

theorem witness_idempotent :
    Memory.wf (idle4 [(0, 7#24)]).buf = true ∧ (next? (exec (.setpx 1#32 9#32) (idle4 [(0, 7#24)]))).isSome = true ∧
      (next? (exec (.setrgb 1#32 9#32 0#32 0#32) (idle4 [(0, 7#24)]))).isSome = true ∧
      ((next? (exec .clear (idle4 [(0, 7#24)]))).bind fun s => next? (exec .clear s)).isSome = true := by decide

/-- Each code an accept step can report, and none. -/
theorem witness_first_error :
    reportedError (.init 9#32) (tx4 .tPreHi) = some .busy ∧ reportedError .showGrid (init2 .iSetup) = some .busy ∧
      reportedError (.setpx 9#32 0#32) State.reset = some .notInitialized ∧
      reportedError (.init 9#32) (idle4 []) = some .alreadyInitialized ∧
      reportedError (.init 5#32) (small .uninit .noPhase 0#32 []) = some .countTooLarge ∧
      reportedError (.getpx 4#32) (idle4 []) = some .outOfRange ∧ reportedError (.getpx 3#32) (idle4 []) = none ∧
      reportedError (.init 4#32) (small .uninit .noPhase 0#32 []) = none ∧
      reportedError .showGrid (idle4 []) = none := by decide

theorem witness_outcome_by_mode :
    State.reset.mode = .uninit ∧ (init2 .iSetup).mode = .initializing ∧ (idle4 []).mode = .idle ∧
      (tx4 .tDlow).mode = .tx ∧ (4#32 : Word) ≤ smallCfg.nMax ∧
      decode ((acceptState .h0 [0x107#32]).words .h0) = .bad .reservedOpcode [] := by decide

theorem witness_errors_accept :
    exec (.getpx 4#32) (idle4 []) = .next (raiseError .outOfRange (idle4 [])) ∧
      Responded .h0 .outOfRange none (idle4 []) (raiseError .outOfRange (idle4 [])) ∧
      ResultCode.outOfRange ≠ .ok := ⟨rfl, responded_respondOn _ _ _ _ _ rfl rfl, by decide⟩

/-- The state after INIT's first request is answered fail. -/
def failed : State :=
  { small .uninit .noPhase 0#32 [] with pendCount := 2#32, status := .initFailed, trace := [.setup],
                                        rsp0 := [{ status := .initFailed, data := none }] }

theorem witness_errors_phase :
    ({ init2 .iSetup with turns := [.take .fail] } : State).turns = [.take .fail] ∧
      step { init2 .iSetup with turns := [.take .fail] } = .next failed ∧
      Responded .h0 .initFailed none { init2 .iSetup with turns := [.take .fail] } failed :=
  ⟨rfl, rfl, rfl, rfl, by intro q hq; cases q <;> simp_all; rfl⟩

theorem witness_response_layout :
    exec (.getpx 0#32) (tx4 .tPreHi) = .next (respondOk (some 5#32) (tx4 .tPreHi)) ∧
      Responded .h0 .ok (some 5#32) (tx4 .tPreHi) (respondOk (some 5#32) (tx4 .tPreHi)) :=
  ⟨rfl, responded_respondOn _ _ _ _ _ rfl rfl⟩

theorem witness_result_codes : (0x08#8 : Byte) ≤ 0x08#8 ∧ (0x08#8 : Byte) ≤ 0xFF#8 := by decide

/-- A step of each kind: a command, a phase step that responds, a host's word. -/
theorem witness_steps :
    (next? (step (acceptState .h0 [4#32]))).isSome = true ∧
      (acceptState .h0 [4#32]).turns.head? ≠ some .reset ∧
      (next? (step { init2 .iCfgC with turns := [.take .ok] })).isSome = true ∧
      (next? (step { tx4 .tSettle with turns := [.host .h1 5#32] })).isSome = true := by decide

theorem witness_show_accept :
    (init2 .iSetup).mode = .initializing ∧ (tx4 .tDlow).mode = .tx ∧ State.reset.mode = .uninit ∧
      (idle4 []).mode = .idle := by decide

/-- The state `s` with other counts of pulses. -/
def withPulses (p b : BitVec 16) (s : State) : State :=
  { s with cfg := { s.cfg with preamblePulses := p, blankPulses := b } }

/-- T_DLOW with P > 0, and with P = 0 with and without pixels; `taking_turns` is the hypothesis on the turns of each. -/
theorem witness_preamble_dlow :
    ((taking .ok (tx4 .tDlow)).phase = .tDlow ∧ 0#16 < (taking .ok (tx4 .tDlow)).cfg.preamblePulses) ∧
      ((taking .ok (withPulses 0 0 (tx4 .tDlow))).phase = .tDlow ∧
        (taking .ok (withPulses 0 0 (tx4 .tDlow))).cfg.preamblePulses = 0#16 ∧
        0#32 < (taking .ok (withPulses 0 0 (tx4 .tDlow))).N) ∧
      ((taking .ok (withPulses 0 0 (small .tx .tDlow 0#32 []))).phase = .tDlow ∧
        (taking .ok (withPulses 0 0 (small .tx .tDlow 0#32 []))).cfg.preamblePulses = 0#16 ∧
        (taking .ok (withPulses 0 0 (small .tx .tDlow 0#32 []))).N = 0#32) := by decide

/-- T_PRE_HI, and T_PRE_LO before the last pulse (P = 65535) and at it, with and without pixels. -/
theorem witness_preamble_pulse :
    (taking .ok (tx4 .tPreHi)).phase = .tPreHi ∧
      ((taking .ok (withPulses 65535 0 (tx4 .tPreLo))).phase = .tPreLo ∧
        (taking .ok (withPulses 65535 0 (tx4 .tPreLo))).pulseCnt + 1#16 ≠
          (taking .ok (withPulses 65535 0 (tx4 .tPreLo))).cfg.preamblePulses) ∧
      ((taking .ok (tx4 .tPreLo)).phase = .tPreLo ∧
        (taking .ok (tx4 .tPreLo)).pulseCnt + 1#16 = (taking .ok (tx4 .tPreLo)).cfg.preamblePulses ∧
        0#32 < (taking .ok (tx4 .tPreLo)).N) ∧
      ((taking .ok (small .tx .tPreLo 0#32 [])).phase = .tPreLo ∧
        (taking .ok (small .tx .tPreLo 0#32 [])).pulseCnt + 1#16 =
          (taking .ok (small .tx .tPreLo 0#32 [])).cfg.preamblePulses ∧
        (taking .ok (small .tx .tPreLo 0#32 [])).N = 0#32) := by decide

/-- A frame bit of a pixel of four. -/
def atBit (p : Phase) (k : Word) (i : BitVec 5) : State := taking .ok { tx4 p with pixIdx := k, bitIdx := i }

/-- T_BIT_D at bit 24 of the last pixel, at bits 23 and 0; T_BIT_LO at each of its three ends. -/
theorem witness_frame_bit :
    ((atBit .tBitD 3 24).phase = .tBitD ∧ (atBit .tBitD 3 24).bitIdx = 24#5 ∧ (atBit .tBitD 3 24).mode = .tx ∧
        (atBit .tBitD 3 24).pixIdx < (atBit .tBitD 3 24).N) ∧
      ((atBit .tBitD 0 23).phase = .tBitD ∧ (atBit .tBitD 0 23).bitIdx < 24#5) ∧
      ((atBit .tBitD 0 0).phase = .tBitD ∧ (atBit .tBitD 0 0).bitIdx < 24#5) ∧
      (atBit .tBitHi 0 24).phase = .tBitHi ∧
      ((atBit .tBitLo 3 1).phase = .tBitLo ∧ 0#5 < (atBit .tBitLo 3 1).bitIdx) ∧
      ((atBit .tBitLo 2 0).phase = .tBitLo ∧ (atBit .tBitLo 2 0).bitIdx = 0#5 ∧
        (atBit .tBitLo 2 0).pixIdx + 1#32 < (atBit .tBitLo 2 0).N) ∧
      ((atBit .tBitLo 3 0).phase = .tBitLo ∧ (atBit .tBitLo 3 0).bitIdx = 0#5 ∧
        (atBit .tBitLo 3 0).N ≤ (atBit .tBitLo 3 0).pixIdx + 1#32) := by decide

/-- The blank with B > 0 and B = 0, its last pulse (B = 1) and one before (B = 65535), and the pause. -/
theorem witness_blank :
    ((taking .fail (tx4 .tBlkDlow)).phase = .tBlkDlow ∧ 0#16 < (taking .fail (tx4 .tBlkDlow)).cfg.blankPulses) ∧
      ((taking .ok (withPulses 1 0 (tx4 .tBlkDlow))).phase = .tBlkDlow ∧
        (taking .ok (withPulses 1 0 (tx4 .tBlkDlow))).cfg.blankPulses = 0#16) ∧
      (taking .ok (tx4 .tBlkHi)).phase = .tBlkHi ∧
      ((taking .ok (tx4 .tBlkLo)).phase = .tBlkLo ∧
        (taking .ok (tx4 .tBlkLo)).pulseCnt + 1#16 = (taking .ok (tx4 .tBlkLo)).cfg.blankPulses) ∧
      ((taking .ok (withPulses 1 65535 (tx4 .tBlkLo))).phase = .tBlkLo ∧
        (taking .ok (withPulses 1 65535 (tx4 .tBlkLo))).pulseCnt + 1#16 ≠
          (taking .ok (withPulses 1 65535 (tx4 .tBlkLo))).cfg.blankPulses) ∧
      (taking .ok (tx4 .tSettle)).phase = .tSettle := by decide

/-- An instance with P = 0, B = 0 and one pixel: 78 requests (95_test_vectors.md 2.7). -/
def oneIdle : State :=
  { small .idle .noPhase 1#32 [(0, 0xFFFFFF#24)] with cfg := { smallCfg with preamblePulses := 0#16, blankPulses := 0#16 } }

theorem witness_show_run :
    ({ oneIdle with turns := (List.replicate 78 Answer.ok).map Turn.take ++ [.reset] } : State).mode = .idle ∧
      (List.replicate 78 Answer.ok).length = showLength oneIdle.cfg oneIdle.N.toNat ∧
      ({ oneIdle with turns := (List.replicate 78 Answer.ok).map Turn.take ++ [.reset] } : State).turns =
        (List.replicate 78 Answer.ok).map .take ++ [.reset] := by decide

/-- A CLEAR on `CMD1` in the middle of the frame. -/
def between : List Turn := List.replicate 40 (.take .ok) ++ [.host .h1 4#32, .accept .h1] ++ List.replicate 37 (.take .ok)

theorem witness_show_with_second_host :
    ({ oneIdle with turns := between ++ .take .ok :: [] } : State).mode = .idle ∧
      (∀ t ∈ between, t ≠ .reset ∧ t.present oneIdle.cfg = true) ∧
      between.countP Turn.isTake + 1 = showLength oneIdle.cfg oneIdle.N.toNat ∧
      ({ oneIdle with turns := between ++ .take .ok :: [] } : State).turns = between ++ .take .ok :: [] := by decide

theorem witness_host_moves :
    ({ tx4 .tBitHi with turns := [.host .h1 4#32] } : State).mode = .tx ∧ (Turn.host .h1 4#32).isHostSide = true ∧
      (Turn.host .h1 4#32).present smallCfg = true ∧ (Turn.accept .h0).isHostSide = true ∧
      (Turn.accept .h0).present smallCfg = true ∧
      ({ tx4 .tBitHi with turns := [.host .h1 4#32] } : State).turns = .host .h1 4#32 :: [] := by decide

/-- Two SHOWs and a GETPX's header on CMD0, and the turns of the two refreshes. -/
def twoShows : State :=
  { oneIdle with cmd0 := [5#32, 5#32, 6#32],
                 turns := .accept .h0 :: List.replicate 78 (.take .ok) ++ .accept .h0 :: List.replicate 78 (.take .fail) }

theorem witness_show_twice :
    twoShows.mode = .idle ∧ twoShows.cmd0 = encode .showGrid ++ encode .showGrid ++ [6#32] ∧
      (List.replicate 78 Answer.ok).length = showLength twoShows.cfg twoShows.N.toNat ∧
      (List.replicate 78 Answer.fail).length = showLength twoShows.cfg twoShows.N.toNat ∧
      twoShows.turns = .accept .h0 :: (List.replicate 78 Answer.ok).map .take ++
        .accept .h0 :: (List.replicate 78 Answer.fail).map .take ++ [] := by decide

/-- The two ends of each range of positions. -/
theorem witness_show_positions :
    (0 : Nat) < smallCfg.preamblePulses.toNat ∧ ([5#24] : List Pixel)[0]? = some 5#24 ∧ (0 : Nat) ≤ 24 ∧
      (24 : Nat) ≤ 24 ∧ (0 : Nat) < smallCfg.blankPulses.toNat ∧ (49 : Nat) < Config.documented.preamblePulses.toNat ∧
      (199 : Nat) < Config.documented.blankPulses.toNat := by decide

/-- Different pins, and a pulse. -/
theorem witness_wire :
    smallCfg.wf = true ∧ 0 < smallCfg.preamblePulses.toNat + 25 * ([] : List Pixel).length + smallCfg.blankPulses.toNat :=
  by decide

theorem witness_held_while_busy :
    ({ tx4 .tBitHi with cmd0 := [4#32], turns := [.accept .h0] } : State).busy = true ∧
      ({ tx4 .tBitHi with cmd0 := [4#32], turns := [.accept .h0] } : State).turns = .accept .h0 :: [] := by decide

/-- Busy, with no turn, and with a host's word. -/
theorem witness_untaken :
    (tx4 .tBitHi).busy = true ∧ (∀ a, (tx4 .tBitHi).turns.head? ≠ some (.take a)) ∧
      (tx4 .tBitHi).turns.head? ≠ some .reset ∧ step (tx4 .tBitHi) = .next (tx4 .tBitHi) ∧
      (next? (step { tx4 .tBitHi with turns := [.host .h0 1#32] })).isSome = true :=
  ⟨by decide, by intro a; cases a <;> decide, by decide, rfl, by decide⟩

theorem witness_ended :
    Ended (idle4 [(0, 7#24)]) ∧ (idle4 [(0, 7#24)]).turns = [] := by decide

theorem witness_reset_turn : ({ tx4 .tBitHi with turns := [.reset] } : State).turns = .reset :: [] := by decide

/-- A state inside a frame that meets the invariant, and a step from it. -/
def midFrame : State :=
  { tx4 .tBitLo with shreg := frame 5#24, bitIdx := 7#5, pixIdx := 0#32, dataLvl := .low, clkLvl := .high,
                     trace := [.write 2 false, .write 3 true], turns := [.take .ok] }

theorem witness_invariant :
    Inv midFrame ∧ LevelsMatchTrace midFrame ∧ midFrame.cfg.wf = true ∧ (next? (step midFrame)).isSome = true ∧
      midFrame.turns.head? ≠ some .reset := by decide

theorem witness_out_of_range :
    Inv midFrame ∧ (idle4 []).mode = .idle ∧ midFrame.mode = .tx ∧ (idle4 []).N ≤ (4#32 : Word) ∧
      midFrame.N ≤ (0xFFFFFFFF#32 : Word) := by decide

/-- Each change of mode, from a state that meets the invariant. -/
theorem witness_mode_changes :
    Inv { State.reset with cmd0 := [1#32, 2#32] } ∧
      (next? (step { State.reset with cmd0 := [1#32, 2#32] })).map State.mode = some .initializing ∧
      Inv { init2 .iCfgC with turns := [.take .ok] } ∧
      (next? (step { init2 .iCfgC with turns := [.take .ok] })).map State.mode = some .idle ∧
      Inv { init2 .iCfgC with turns := [.take .fail] } ∧
      (next? (step { init2 .iCfgC with turns := [.take .fail] })).map State.mode = some .uninit ∧
      Inv { idle4 [] with cmd0 := [5#32] } ∧
      (next? (step { idle4 [] with cmd0 := [5#32] })).map State.mode = some .tx ∧
      Inv { tx4 .tSettle with dataLvl := .low, turns := [.take .ok] } ∧
      (next? (step { tx4 .tSettle with dataLvl := .low, turns := [.take .ok] })).map State.mode = some .idle ∧
      Inv { midFrame with turns := [.reset] } ∧
      (next? (step { midFrame with turns := [.reset] })).map State.mode = some .uninit := by decide

/-- Each change of the count and of the buffer. -/
theorem witness_writers :
    Inv { init2 .iCfgC with turns := [.take .ok] } ∧
      (next? (step { init2 .iCfgC with turns := [.take .ok] })).map State.N = some 2#32 ∧
      Inv (acceptState .h0 [2#32, 3#32, 9#32]) ∧
      (next? (step (acceptState .h0 [2#32, 3#32, 9#32]))).map State.buf = some [(3, 9#24)] := by decide

/-- A step that sends a request, a reset, a fault and a refusal. -/
theorem witness_trace :
    ((next? (step midFrame)).map State.trace = some ([.write 2 false, .write 3 true] ++ [.write 3 false]) ∧
        midFrame.turns.head? ≠ some .reset) ∧
      ((next? (step { midFrame with turns := [.reset] })).isSome = true ∧
        ({ midFrame with turns := [.reset] } : State).turns.head? = some .reset) ∧
      step (atBit .tBitD 4 24) = .fault .noElement ∧
      step { State.reset with turns := [.accept .h1] } = .refused .portAbsent :=
  ⟨by decide, by decide, rfl, rfl⟩

/-- Two states that differ where reset gives no value. -/
theorem witness_unspecified :
    Inv State.reset ∧
      SameButUnspecified State.reset
        { State.reset with N := 9#32, pendCount := 8#32, pulseCnt := 7#16, pixIdx := 6#32, bitIdx := 5#5, shreg := 4#25 } ∧
      step State.reset = .next State.reset := ⟨by decide, by decide, rfl⟩

end Sys2Proof.Tests
end

section
/-! PROOFS. The parameters of the instance (R7) are no state element: no command and no step changes them. -/

namespace Sys2Proof.Machine

@[simp] theorem respondOk_cfg (data : Option Word) (s : State) : (respondOk data s).cfg = s.cfg :=
  respondOn_cfg s.port .ok data s

/-- R33: no command's accept step changes a parameter. -/
theorem exec_keeps_cfg (i : Instr) (s s' : State) (h : exec i s = .next s') : s'.cfg = s.cfg := by
  rcases exec_cases i s with ⟨code, -, error⟩ | ⟨data, m, -, -, done⟩ | ⟨count, -, -, -, init⟩ | ⟨-, -, refresh⟩
  · rw [error] at h; cases h; exact raiseError_cfg code s
  · rw [done] at h; cases h; exact respondOk_cfg data { s with buf := m }
  · rw [init] at h; cases h; rfl
  · rw [refresh] at h; cases h; rfl

/-- Settles O53, over the six things a step can be (`step_cases`): a turn used up, a host's word, a bad command,
a command (`exec_keeps_cfg`), a phase step (`phaseStep_keeps`), reset. -/
theorem stepKeepsParameters : Obligations.StepKeepsParameters := by
  intro s s' h
  rcases step_cases s s' h with ⟨rfl, -⟩ | ⟨p, w, -, -, rfl⟩ | ⟨p, why, rest, -, -, rfl⟩ |
    ⟨p, i, rest, -, -, run⟩ | ⟨a, -, -, phase⟩ | ⟨-, rfl⟩
  · exact afterTurn_cfg s
  · simp
  · simp
  · calc s'.cfg = (consume p rest (afterTurn s)).cfg := exec_keeps_cfg i _ s' run
      _ = s.cfg := by simp
  · obtain ⟨keepsCfg, -⟩ := phaseStep_keeps a (afterTurn s) s' phase
    exact keepsCfg.trans (afterTurn_cfg s)
  · simp

end Sys2Proof.Machine
end

section
/-! PROOFS. The invariant of the block (10_state.md R24, R27 to R32, R51, R96, R120): it holds at reset and every step
keeps it. -/

namespace Sys2Proof.Machine

/-! ### What the invariant says in each mode -/

/-- R27: phase NONE in IDLE. -/
theorem noPhase_of_fits_idle (p : Phase) (h : phaseFits p .idle = true) : p = .noPhase := by
  cases p <;> simp_all [phaseFits]

/-- R24, R51: in IDLE and TX the buffer is canonical and holds indices below `N`. -/
theorem bufferFits_iff_of_initialized (s : State) (h : s.initialized = true) :
    bufferFits s = true ↔ Memory.wf s.buf = true ∧ ∀ c ∈ s.buf, c.1 < s.N.toNat := by
  simp [bufferFits, h]

/-- R24: elsewhere there is no buffer. -/
theorem bufferFits_iff_of_not_initialized (s : State) (h : s.initialized = false) :
    bufferFits s = true ↔ s.buf = [] := by
  simp only [bufferFits, h, Bool.and_eq_true, Bool.false_eq_true, if_false, decide_eq_true_eq]
  exact ⟨And.right, fun e => ⟨by simp [e], e⟩⟩

theorem initialized_of_idle (s : State) (h : s.mode = .idle) : s.initialized = true :=
  (initialized_iff s).2 (.inl h)

theorem initialized_of_tx (s : State) (h : s.mode = .tx) : s.initialized = true :=
  (initialized_iff s).2 (.inr h)

theorem not_initialized_of_uninit (s : State) (h : s.mode = .uninit) : s.initialized = false := by
  simp [State.initialized, h]

theorem not_initialized_of_initializing (s : State) (h : s.mode = .initializing) : s.initialized = false := by
  simp [State.initialized, h]

theorem resetBlock_inv (s : State) : Inv (resetBlock s) :=
  ⟨rfl, rfl, by simp [countFits, State.initialized], rfl, rfl, rfl, rfl⟩

/-! ### Commands -/

/-- R51: a written buffer still fits. -/
theorem bufferFits_insert (s : State) (k : Word) (v : Pixel) (hi : s.initialized = true) (hk : k < s.N)
    (h : bufferFits s = true) : bufferFits { s with buf := memInsert s.buf k.toNat v } = true := by
  obtain ⟨canonical, below⟩ := (bufferFits_iff_of_initialized s hi).1 h
  exact (bufferFits_iff_of_initialized { s with buf := memInsert s.buf k.toNat v } hi).2
    ⟨memInsert_wf _ _ _ canonical, memInsert_all_lt _ _ _ _ below hk⟩

/-- An empty buffer fits in every mode. -/
theorem bufferFits_of_empty (s : State) (h : s.buf = []) : bufferFits s = true := by
  simp [bufferFits, h]

/-- The invariant does not look at what a response writes. -/
theorem respondOn_inv (p : Port) (code : ResultCode) (data : Option Word) (s : State) (h : Inv s) :
    Inv (respondOn p code data s) := by
  apply inv_congr s _ (h := h) <;> simp

/-- The invariant does not look at the ports. -/
theorem consume_inv (p : Port) (ws : List Word) (s : State) (h : Inv s) : Inv (consume p ws s) := by
  apply inv_congr s _ (h := h) <;> simp

/-- The invariant does not look at the turns to come. -/
theorem afterTurn_inv (s : State) (h : Inv s) : Inv (afterTurn s) := h

/-- A command's accept step keeps the invariant. -/
theorem exec_keeps_inv (i : Instr) (s s' : State) (inv : Inv s) (h : exec i s = .next s') : Inv s' := by
  obtain ⟨fits, buffer, count, counters, data, clock, lines⟩ := inv
  rcases exec_cases i s with ⟨code, -, e⟩ | ⟨d, m, hi, hm, e⟩ | ⟨n, -, mode, hn, e⟩ | ⟨-, mode, e⟩ <;>
    rw [e] at h <;> cases h
  · exact respondOn_inv _ _ _ _ ⟨fits, buffer, count, counters, data, clock, lines⟩
  · have buffer' : bufferFits { s with buf := m } = true := by
      rcases hm with rfl | rfl | ⟨k, v, hk, rfl⟩
      · exact buffer
      · exact bufferFits_of_empty _ rfl
      · exact bufferFits_insert s k v hi hk buffer
    exact respondOn_inv _ _ _ _ ⟨fits, buffer', count, counters, data, clock, lines⟩
  · have empty := (bufferFits_iff_of_not_initialized s (not_initialized_of_uninit s mode)).1 buffer
    have unwritten : s.dataLvl = .x ∧ s.clkLvl = .x := by
      simpa [linesUnwritten, not_initialized_of_uninit s mode] using lines
    refine ⟨rfl, ?_, ?_, rfl, rfl, ?_, ?_⟩
    · exact bufferFits_of_empty _ empty
    · simp [countFits, State.initialized, hn]
    · simp [clockLevelFits, unwritten.2]
    · simp [linesUnwritten, unwritten]
  · have hi := initialized_of_idle s mode
    have noPhase : s.phase = .noPhase := noPhase_of_fits_idle _ (mode ▸ fits)
    have below : s.N ≤ s.cfg.nMax := by simpa [countFits, hi, mode] using count
    refine ⟨rfl, ?_, ?_, rfl, rfl, ?_, rfl⟩
    · exact (bufferFits_iff_of_initialized _ rfl).2 ((bufferFits_iff_of_initialized s hi).1 buffer)
    · simp [countFits, below]
    · simpa [clockLevelFits, noPhase] using clock

/-! ### The phase steps of INIT -/

/-- What the invariant says while INIT runs, which its phase steps before the last do not touch. -/
def InitFits (s : State) : Prop :=
  s.mode = .initializing ∧ s.buf = [] ∧ s.pendCount ≤ s.cfg.nMax ∧ s.dataLvl = .x ∧ s.clkLvl = .x

theorem initFits_of_inv (s : State) (inv : Inv s) (mode : s.mode = .initializing) : InitFits s := by
  obtain ⟨-, buffer, count, -, -, -, lines⟩ := inv
  have hi := not_initialized_of_initializing s mode
  have unwritten : s.dataLvl = .x ∧ s.clkLvl = .x := by simpa [linesUnwritten, hi] using lines
  exact ⟨mode, (bufferFits_iff_of_not_initialized s hi).1 buffer, by simpa [countFits, hi, mode] using count,
    unwritten⟩

/-- INIT going on to its next phase meets the invariant. -/
theorem inv_of_initFits (s : State) (base : InitFits s) (phase : s.phase = .iCfgD ∨ s.phase = .iCfgC) : Inv s := by
  obtain ⟨mode, buffer, count, data, clock⟩ := base
  have hi := not_initialized_of_initializing s mode
  refine ⟨?_, bufferFits_of_empty s buffer, by simp [countFits, hi, count], ?_, ?_, ?_,
    by simp [linesUnwritten, data, clock]⟩ <;> rcases phase with h | h
  all_goals simp [phaseFits, countersFit, dataLevelFits, clockLevelFits, h, mode, clock]

/-- The end of a failed INIT meets the invariant (R93). -/
theorem initFail_inv (s : State) (base : InitFits s) : Inv (initFail s) := by
  obtain ⟨-, buffer, -, data, clock⟩ := base
  apply respondOn_inv
  exact ⟨rfl, bufferFits_of_empty _ buffer, by simp [countFits, State.initialized], rfl, rfl,
    by simp [clockLevelFits, clock], by simp [linesUnwritten, data, clock]⟩

/-- The end of a successful INIT meets the invariant (R92). -/
theorem initSucceed_inv (s : State) (base : InitFits s) : Inv (initSucceed s) := by
  obtain ⟨-, -, count, -, clock⟩ := base
  apply respondOn_inv
  exact ⟨rfl, bufferFits_of_empty _ rfl, by simp [countFits, count], rfl, rfl, by simp [clockLevelFits, clock], rfl⟩

theorem phaseISetup_inv (a : Answer) (s : State) (base : InitFits s) : Inv (phaseISetup a s) := by
  cases a
  · exact inv_of_initFits _ base (.inl rfl)
  · exact initFail_inv _ base

theorem phaseICfgD_inv (a : Answer) (s : State) (base : InitFits s) : Inv (phaseICfgD a s) := by
  cases a
  · exact inv_of_initFits _ base (.inr rfl)
  · exact initFail_inv _ base

theorem phaseICfgC_inv (a : Answer) (s : State) (base : InitFits s) : Inv (phaseICfgC a s) := by
  cases a
  · exact initSucceed_inv _ base
  · exact initFail_inv _ base

/-! ### The phase steps of SHOW -/

/-- The part of the invariant that a phase step of SHOW before the last does not touch. -/
def RefreshFits (s : State) : Prop := s.mode = .tx ∧ bufferFits s = true ∧ countFits s = true

/-- The invariant in TX: that part, and what the phase asks of the counters and the line levels. -/
theorem inv_of_refreshFits (s : State) (base : RefreshFits s) (fits : phaseFits s.phase .tx = true)
    (counters : countersFit s = true) (data : dataLevelFits s = true) (clock : clockLevelFits s = true) : Inv s := by
  obtain ⟨mode, buffer, count⟩ := base
  exact ⟨mode ▸ fits, buffer, count, counters, data, clock, by simp [linesUnwritten, initialized_of_tx s mode]⟩

/-- `AFTER_PRE` ends in a state that meets the invariant: frame bits if there are pixels, else the blank. -/
theorem afterPreamble_inv (s : State) (base : RefreshFits s) (clock : s.clkLvl ≠ .high) :
    Inv (afterPreamble s) := by
  unfold afterPreamble
  split
  · rename_i pixels
    exact inv_of_refreshFits _ base rfl (by simp [countersFit, pixels]) rfl (by simp [clockLevelFits, clock])
  · exact inv_of_refreshFits _ base rfl rfl rfl (by simp [clockLevelFits, clock])

/-! Each phase step of SHOW, from what the invariant asks in its phase (R129 to R138). -/

theorem phaseTDlow_inv (s : State) (base : RefreshFits s) (clock : s.clkLvl ≠ .high) : Inv (phaseTDlow s) := by
  unfold phaseTDlow
  split
  · rename_i pulses
    exact inv_of_refreshFits _ base rfl (by simp [countersFit, pulses]) rfl (by simp [clockLevelFits, clock])
  · exact afterPreamble_inv _ base clock

theorem phaseTPreHi_inv (s : State) (base : RefreshFits s) (data : s.dataLvl = .low)
    (run : s.pulseCnt < s.cfg.preamblePulses) : Inv (phaseTPreHi s) :=
  inv_of_refreshFits _ base rfl (by simp [countersFit, phaseTPreHi, run])
    (by simp [dataLevelFits, phaseTPreHi, data]) rfl

theorem phaseTPreLo_inv (s : State) (base : RefreshFits s) (data : s.dataLvl = .low)
    (run : s.pulseCnt < s.cfg.preamblePulses) : Inv (phaseTPreLo s) := by
  unfold phaseTPreLo
  split
  · exact afterPreamble_inv _ base (by simp [levelOf])
  · rename_i more
    exact inv_of_refreshFits _ base rfl (by simp [countersFit, pulse_succ_lt _ _ run more])
      (by simp [dataLevelFits, data]) rfl

/-- R121: the frame register holds the marker once it is loaded. -/
theorem frame_marker (v : Pixel) : (frame v).getLsbD 24 = true := by
  simp [frame]

/-- The data write of a frame bit with the frame register loaded. -/
theorem sendBit_inv (s : State) (base : RefreshFits s) (pixel : s.pixIdx < s.N) (bit : s.bitIdx ≤ 24#5)
    (marker : s.shreg.getLsbD 24 = true) (clock : s.clkLvl ≠ .high) : Inv (sendBit s) :=
  inv_of_refreshFits _ base rfl (by simp [countersFit, sendBit, pixel, bit, marker])
    (by simp [dataLevelFits, sendBit]) (by simp [clockLevelFits, sendBit, clock])

theorem phaseTBitD_inv (s s' : State) (base : RefreshFits s) (pixel : s.pixIdx < s.N) (bit : s.bitIdx ≤ 24#5)
    (marker : s.bitIdx = 24#5 ∨ s.shreg.getLsbD 24 = true) (clock : s.clkLvl ≠ .high)
    (h : phaseTBitD s = .next s') : Inv s' := by
  rcases phaseTBitD_cases s with ⟨-, e⟩ | ⟨-, -, e⟩ | ⟨-, -, -, e⟩ | ⟨below, e⟩ <;> rw [e] at h <;>
    cases h
  · exact sendBit_inv _ base pixel bit (frame_marker _) clock
  · exact sendBit_inv _ base pixel bit (marker.resolve_left (by bv_omega)) clock

theorem phaseTBitHi_inv (s : State) (base : RefreshFits s) (pixel : s.pixIdx < s.N) (bit : s.bitIdx ≤ 24#5)
    (marker : s.shreg.getLsbD 24 = true) (data : s.dataLvl = levelOf (s.shreg.getLsbD s.bitIdx.toNat)) :
    Inv (phaseTBitHi s) :=
  inv_of_refreshFits _ base rfl (by simp [countersFit, phaseTBitHi, pixel, bit, marker])
    (by simp [dataLevelFits, phaseTBitHi, data]) rfl

theorem phaseTBitLo_inv (s : State) (base : RefreshFits s) (pixel : s.pixIdx < s.N) (bit : s.bitIdx ≤ 24#5)
    (marker : s.shreg.getLsbD 24 = true) : Inv (phaseTBitLo s) := by
  unfold phaseTBitLo
  split
  · have bit' : s.bitIdx - 1#5 ≤ 24#5 := by bv_omega
    exact inv_of_refreshFits _ base rfl (by simp [countersFit, pixel, bit', marker]) rfl rfl
  · split
    · rename_i pixel'
      exact inv_of_refreshFits _ base rfl (by simp [countersFit, pixel']) rfl rfl
    · exact inv_of_refreshFits _ base rfl rfl rfl rfl

theorem phaseTBlkDlow_inv (s : State) (base : RefreshFits s) (clock : s.clkLvl ≠ .high) :
    Inv (phaseTBlkDlow s) := by
  unfold phaseTBlkDlow
  split
  · rename_i pulses
    exact inv_of_refreshFits _ base rfl (by simp [countersFit, pulses]) rfl (by simp [clockLevelFits, clock])
  · exact inv_of_refreshFits _ base rfl rfl rfl (by simp [clockLevelFits, clock])

theorem phaseTBlkHi_inv (s : State) (base : RefreshFits s) (data : s.dataLvl = .low)
    (run : s.pulseCnt < s.cfg.blankPulses) : Inv (phaseTBlkHi s) :=
  inv_of_refreshFits _ base rfl (by simp [countersFit, phaseTBlkHi, run])
    (by simp [dataLevelFits, phaseTBlkHi, data]) rfl

theorem phaseTBlkLo_inv (s : State) (base : RefreshFits s) (data : s.dataLvl = .low)
    (run : s.pulseCnt < s.cfg.blankPulses) : Inv (phaseTBlkLo s) := by
  unfold phaseTBlkLo
  split
  · exact inv_of_refreshFits _ base rfl rfl (by simp [dataLevelFits, data]) rfl
  · rename_i more
    exact inv_of_refreshFits _ base rfl (by simp [countersFit, pulse_succ_lt _ _ run more])
      (by simp [dataLevelFits, data]) rfl

/-- The end of SHOW meets the invariant (R138). -/
theorem phaseTSettle_inv (s : State) (base : RefreshFits s) (clock : s.clkLvl ≠ .high) : Inv (phaseTSettle s) := by
  obtain ⟨mode, buffer, count⟩ := base
  apply respondOn_inv
  refine ⟨rfl, ?_, ?_, rfl, rfl, by simp [clockLevelFits, clock], rfl⟩
  · exact (bufferFits_iff_of_initialized _ rfl).2
      ((bufferFits_iff_of_initialized s (initialized_of_tx s mode)).1 buffer)
  · have below : s.N ≤ s.cfg.nMax := by simpa [countFits, mode, State.initialized] using count
    simp [countFits, below]

/-- A phase step keeps the invariant: in each phase the invariant's parts are what that phase's lemma asks. -/
theorem phaseStep_keeps_inv (a : Answer) (s s' : State) (inv : Inv s) (h : phaseStep a s = .next s') : Inv s' := by
  have init := initFits_of_inv s inv
  have ⟨fits, buffer, count, counters, data, clock, _⟩ := inv
  have refresh : s.mode = .tx → RefreshFits s := fun mode => ⟨mode, buffer, count⟩
  cases hp : s.phase <;> simp only [phaseStep, hp] at h <;>
    simp only [phaseFits, countersFit, dataLevelFits, clockLevelFits, hp, decide_eq_true_eq, Bool.and_eq_true,
      Bool.or_eq_true] at fits counters data clock
  case tBitD =>
    obtain ⟨⟨pixel, bit⟩, marker⟩ := counters
    exact phaseTBitD_inv s s' (refresh fits) pixel bit marker clock h
  all_goals cases h
  case noPhase => exact inv
  case iSetup => exact phaseISetup_inv a s (init fits)
  case iCfgD => exact phaseICfgD_inv a s (init fits)
  case iCfgC => exact phaseICfgC_inv a s (init fits)
  case tDlow => exact phaseTDlow_inv s (refresh fits) clock
  case tPreHi => exact phaseTPreHi_inv s (refresh fits) data counters
  case tPreLo => exact phaseTPreLo_inv s (refresh fits) data counters
  case tBitHi =>
    obtain ⟨⟨pixel, bit⟩, marker⟩ := counters
    exact phaseTBitHi_inv s (refresh fits) pixel bit marker data
  case tBitLo =>
    obtain ⟨⟨pixel, bit⟩, marker⟩ := counters
    exact phaseTBitLo_inv s (refresh fits) pixel bit marker
  case tBlkDlow => exact phaseTBlkDlow_inv s (refresh fits) clock
  case tBlkHi => exact phaseTBlkHi_inv s (refresh fits) data counters
  case tBlkLo => exact phaseTBlkLo_inv s (refresh fits) data counters
  case tSettle => exact phaseTSettle_inv s (refresh fits) clock

/-- Settles O50, over the six things a step can be (`step_cases`): a command keeps the invariant
(`exec_keeps_inv`), a phase step does (`phaseStep_keeps_inv`), and nothing else touches what it looks at. -/
theorem stepKeepsTheInvariant : Obligations.StepKeepsTheInvariant := by
  intro s s' inv h
  have inv' := afterTurn_inv s inv
  rcases step_cases s s' h with ⟨rfl, -⟩ | ⟨p, w, -, -, rfl⟩ | ⟨p, why, rest, -, -, rfl⟩ |
    ⟨p, i, rest, -, -, run⟩ | ⟨a, -, -, phase⟩ | ⟨-, rfl⟩
  · exact inv'
  · apply inv_congr s _ (h := inv) <;> simp
  · exact respondOn_inv _ _ _ _ (consume_inv _ _ _ inv')
  · exact exec_keeps_inv i _ s' (consume_inv _ _ _ inv') run
  · exact phaseStep_keeps_inv a _ s' inv' phase
  · exact resetBlock_inv _

/-- Settles O49: reset is the state after `resetBlock` of itself, and its trace is empty. -/
theorem resetMeetsTheInvariant : Obligations.ResetMeetsTheInvariant :=
  ⟨resetBlock_inv State.reset, rfl, rfl⟩

/-- Settles O48: no element is readable because the mode is UNINIT (`memRead_eq_some_iff`). -/
theorem resetStateValues : Obligations.ResetStateValues := by
  refine ⟨rfl, rfl, rfl, rfl, rfl, rfl, rfl, fun k => ?_⟩
  rw [Option.eq_none_iff_forall_ne_some]
  intro v h
  exact ((memRead_eq_some_iff k State.reset v).1 h).1 rfl

end Sys2Proof.Machine
end

section
/-! PROOFS. What a step does, as data: the move that the ports and the turns choose, the effect of a command, the one
request and the end of a phase step. Each is fixed by the fields the block reads, so it is the same from every state
with the same ones. -/

namespace Sys2Proof.Machine

/-! ### respondOk -/

@[simp] theorem respondOk_mode (d : Option Word) (s : State) : (respondOk d s).mode = s.mode := by simp [respondOk]
@[simp] theorem respondOk_N (d : Option Word) (s : State) : (respondOk d s).N = s.N := by simp [respondOk]
@[simp] theorem respondOk_buf (d : Option Word) (s : State) : (respondOk d s).buf = s.buf := by simp [respondOk]
@[simp] theorem respondOk_phase (d : Option Word) (s : State) : (respondOk d s).phase = s.phase := by simp [respondOk]
@[simp] theorem respondOk_pendCount (d : Option Word) (s : State) : (respondOk d s).pendCount = s.pendCount := by
  simp [respondOk]
@[simp] theorem respondOk_pulseCnt (d : Option Word) (s : State) : (respondOk d s).pulseCnt = s.pulseCnt := by
  simp [respondOk]
@[simp] theorem respondOk_pixIdx (d : Option Word) (s : State) : (respondOk d s).pixIdx = s.pixIdx := by
  simp [respondOk]
@[simp] theorem respondOk_bitIdx (d : Option Word) (s : State) : (respondOk d s).bitIdx = s.bitIdx := by
  simp [respondOk]
@[simp] theorem respondOk_shreg (d : Option Word) (s : State) : (respondOk d s).shreg = s.shreg := by
  simp [respondOk]
@[simp] theorem respondOk_dataLvl (d : Option Word) (s : State) : (respondOk d s).dataLvl = s.dataLvl := by
  simp [respondOk]
@[simp] theorem respondOk_clkLvl (d : Option Word) (s : State) : (respondOk d s).clkLvl = s.clkLvl := by
  simp [respondOk]
@[simp] theorem respondOk_trace (d : Option Word) (s : State) : (respondOk d s).trace = s.trace := by
  simp [respondOk]
@[simp] theorem respondOk_owner (d : Option Word) (s : State) : (respondOk d s).owner = s.owner := by
  simp [respondOk]
@[simp] theorem respondOk_turns (d : Option Word) (s : State) : (respondOk d s).turns = s.turns := by
  simp [respondOk]

/-! ### The move of a step -/

/-- The moves of a step, with what the words on the ports decide of them. -/
inductive Move where
  /-- A turn at an absent port. -/
  | absent
  /-- Nothing but the turn used up. -/
  | pass
  | host (p : Port) (w : Word)
  | bad (p : Port) (rest : List Word)
  | run (p : Port) (i : Instr) (rest : List Word)
  | phase (a : Answer)
  | reset

/-- The accept step at a port. -/
def acceptMove (p : Port) (s : State) : Move :=
  match decode (s.words p) with
  | .incomplete => .pass
  | .bad _ rest => .bad p rest
  | .command i rest => .run p i rest

/-- The move of the next step: `step` without its effects. It reads the turns, the words on the ports, the mode and the
parameters only. -/
def nextMove (s : State) : Move :=
  match s.turns with
  | [] =>
    if s.commandReady .h0 = true then acceptMove .h0 s
    else if s.portPresent .h1 = true then acceptMove .h1 s
    else .pass
  | .host p w :: _ => if s.portPresent p = false then .absent else .host p w
  | .accept p :: _ =>
    if s.portPresent p = false then .absent else if s.portTakes p = false then .pass else acceptMove p s
  | .take a :: _ => .phase a
  | .reset :: _ => .reset

/-- What a move does. -/
def Move.play : Move → State → Host.Outcome State Fault Refusal
  | .absent, _ => .refused .portAbsent
  | .pass, s => .next s
  | .host p w, s => .next (setWords p (s.words p ++ [w]) s)
  | .bad p rest, s => .next (raiseError .badCommand (consume p rest s))
  | .run p i rest, s => exec i (consume p rest s)
  | .phase a, s => phaseStep a s
  | .reset, s => .next (resetBlock s)

theorem acceptCommand_eq_play (p : Port) (s : State) : acceptCommand p s = (acceptMove p s).play s := by
  unfold acceptCommand acceptMove
  cases decode (s.words p) <;> rfl

/-- A step is its move, played on the state with the turn used up. -/
theorem step_eq_play (s : State) : step s = (nextMove s).play (afterTurn s) := by
  cases ht : s.turns with
  | nil =>
    rw [step_of_no_turn s ht, afterTurn_of_no_turn s ht]
    simp only [idleTurn, nextMove, ht]
    split
    · exact acceptCommand_eq_play .h0 s
    · split
      · exact acceptCommand_eq_play .h1 s
      · rfl
  | cons t ts =>
    rw [step_of_turn s t ts ht, ← afterTurn_of_turn s t ts ht]
    cases t with
    | host p w =>
      have hp : (afterTurn s).portPresent p = s.portPresent p := by cases p <;> rfl
      simp only [takeTurn, hostTurn, nextMove, ht, hp]
      split <;> rfl
    | accept p =>
      have hp : (afterTurn s).portPresent p = s.portPresent p := by cases p <;> rfl
      have hk : (afterTurn s).portTakes p = s.portTakes p := by cases p <;> rfl
      have hm : acceptMove p (afterTurn s) = acceptMove p s := by simp [acceptMove]
      simp only [takeTurn, acceptTurn, nextMove, ht, hp, hk]
      split
      · rfl
      · split
        · rfl
        · rw [acceptCommand_eq_play, hm]
    | take a => simp [takeTurn, nextMove, ht, Move.play]
    | reset => simp [takeTurn, nextMove, ht, Move.play]

theorem acceptMove_ne_reset (p : Port) (s : State) : acceptMove p s ≠ .reset := by
  unfold acceptMove
  split <;> simp

/-- Only a reset turn is a reset. -/
theorem nextMove_ne_reset (s : State) (h : s.turns.head? ≠ some .reset) : nextMove s ≠ .reset := by
  unfold nextMove
  split
  · split
    · exact acceptMove_ne_reset .h0 s
    · split
      · exact acceptMove_ne_reset .h1 s
      · simp
  · split <;> simp
  · split
    · simp
    · split
      · simp
      · exact acceptMove_ne_reset _ s
  · simp
  · simp_all

theorem step_of_reset (s : State) (h : s.turns.head? = some .reset) : step s = .next (resetBlock (afterTurn s)) := by
  obtain ⟨ts, ht⟩ := List.head?_eq_some_iff.1 h
  rw [step_of_turn s .reset ts ht, ← afterTurn_of_turn s .reset ts ht]
  rfl

/-- An accept step is no taking and no reset. -/
theorem head_of_acceptsAt (s : State) (p : Port) (h : AcceptsAt s p) :
    (∀ a, s.turns.head? ≠ some (.take a)) ∧ s.turns.head? ≠ some .reset := by
  obtain ⟨-, -, turn | ⟨none, -⟩⟩ := h
  · simp [turn]
  · simp [none]

/-! ### The effect of a command -/

/-- What the accept step of a command does (R90 to R98, R125). -/
inductive Effect where
  | error (code : ResultCode)
  | done (data : Option Word) (buf : Memory)
  | admitInit (count : Word)
  | admitShow

def Effect.apply : Effect → State → State
  | .error code, s => raiseError code s
  | .done data buf, s => respondOk data { s with buf := buf }
  | .admitInit count, s => { s with pendCount := count, mode := .initializing, phase := .iSetup, owner := s.port }
  | .admitShow, s => { s with mode := .tx, phase := .tDlow, owner := s.port }

/-- The commands that write elements in their accept step (R24, R58). -/
def WritesElements (i : Instr) : Prop :=
  (∃ index color, i = .setpx index color) ∨ (∃ index r g b, i = .setrgb index r g b) ∨ i = .clear

/-- Where a command can have an effect. -/
def Effect.Fits (i : Instr) (s : State) : Effect → Prop
  | .error _ => True
  | .done _ buf => s.initialized = true ∧ (buf = s.buf ∨ WritesElements i)
  | .admitInit count => s.mode = .uninit ∧ i = .init count
  | .admitShow => s.mode = .idle ∧ i = .showGrid

/-- `t` has what a command's accept step reads of `s`. -/
structure SameForExec (s t : State) : Prop where
  cfg : t.cfg = s.cfg
  mode : t.mode = s.mode
  buf : t.buf = s.buf
  count : s.initialized = true → t.N = s.N

theorem SameForExec.busy {s t : State} (h : SameForExec s t) : t.busy = s.busy := by
  simp [State.busy, h.mode]

theorem SameForExec.initialized {s t : State} (h : SameForExec s t) : t.initialized = s.initialized := by
  simp [State.initialized, h.mode]

theorem SameForExec.consume {s t : State} (h : SameForExec s t) (p : Port) (rest : List Word) :
    SameForExec (consume p rest s) (consume p rest t) where
  cfg := by simp [h.cfg]
  mode := by simp [h.mode]
  buf := by simp [h.buf]
  count hi := by simp [h.count (by simpa using hi)]

/-- The effect of SETPX and SETRGB (R94, R95). -/
theorem storePixel_effect (i : Instr) (hw : WritesElements i) (k : Word) (v : Pixel) (s : State) :
    ∃ e : Effect, e.Fits i s ∧ ∀ t, SameForExec s t → storePixel k v t = .next (e.apply t) := by
  cases hi : s.initialized with
  | false =>
    exact ⟨.error .notInitialized, trivial, fun t h => by simp [storePixel, h.initialized, hi, Effect.apply]⟩
  | true =>
    by_cases hk : s.N ≤ k
    · exact ⟨.error .outOfRange, trivial, fun t h => by
        simp [storePixel, h.initialized, hi, h.count hi, hk, Effect.apply]⟩
    · refine ⟨.done none (memInsert s.buf k.toNat v), ⟨hi, .inr hw⟩, fun t h => ?_⟩
      have defined : memWrite k v t = some { t with buf := memInsert s.buf k.toNat v } :=
        (memWrite_eq_some_iff _ _ _ _).2 ⟨h.mode ▸ mode_ne_uninit_of_initialized s hi,
          h.count hi ▸ BitVec.not_le.1 hk, by rw [h.buf]⟩
      simp [storePixel, h.initialized, hi, h.count hi, hk, defined, Effect.apply]

/-- The effect of GETPX (R98). -/
theorem execGetpx_effect (k : Word) (s : State) :
    ∃ e : Effect, e.Fits (.getpx k) s ∧ ∀ t, SameForExec s t → execGetpx k t = .next (e.apply t) := by
  cases hi : s.initialized with
  | false =>
    exact ⟨.error .notInitialized, trivial, fun t h => by simp [execGetpx, h.initialized, hi, Effect.apply]⟩
  | true =>
    by_cases hk : s.N ≤ k
    · exact ⟨.error .outOfRange, trivial, fun t h => by
        simp [execGetpx, h.initialized, hi, h.count hi, hk, Effect.apply]⟩
    · refine ⟨.done (some ((memLookup s.buf k.toNat).setWidth 32)) s.buf, ⟨hi, .inl rfl⟩, fun t h => ?_⟩
      have defined : memRead k t = some (memLookup s.buf k.toNat) :=
        (memRead_eq_some_iff _ _ _).2 ⟨h.mode ▸ mode_ne_uninit_of_initialized s hi,
          h.count hi ▸ BitVec.not_le.1 hk, by rw [h.buf]⟩
      have same : { t with buf := s.buf } = t := by rw [← h.buf]
      have inRange : ¬ t.N ≤ k := h.count hi ▸ hk
      simp [execGetpx, h.initialized, hi, inRange, defined, Effect.apply, same]

/-- The effect of INIT's accept step (R91). -/
theorem execInit_effect (count : Word) (s : State) :
    ∃ e : Effect, e.Fits (.init count) s ∧ ∀ t, SameForExec s t → execInit count t = .next (e.apply t) := by
  cases hb : s.busy with
  | true => exact ⟨.error .busy, trivial, fun t h => by simp [execInit, h.busy, hb, Effect.apply]⟩
  | false =>
    by_cases hm : s.mode = .idle
    · exact ⟨.error .alreadyInitialized, trivial, fun t h => by
        simp [execInit, h.busy, hb, h.mode, hm, Effect.apply]⟩
    · by_cases hc : s.cfg.nMax < count
      · exact ⟨.error .countTooLarge, trivial, fun t h => by
          simp [execInit, h.busy, hb, h.mode, hm, h.cfg, hc, Effect.apply]⟩
      · have uninit : s.mode = .uninit := by
          cases h : s.mode <;> simp_all [State.busy]
        exact ⟨.admitInit count, ⟨uninit, rfl⟩, fun t h => by
          simp [execInit, h.busy, hb, h.mode, hm, h.cfg, hc, Effect.apply]⟩

/-- The effect of SHOW's accept step (R125). -/
theorem execShowGrid_effect (s : State) :
    ∃ e : Effect, e.Fits .showGrid s ∧ ∀ t, SameForExec s t → execShowGrid t = .next (e.apply t) := by
  cases hb : s.busy with
  | true => exact ⟨.error .busy, trivial, fun t h => by simp [execShowGrid, h.busy, hb, Effect.apply]⟩
  | false =>
    by_cases hm : s.mode = .uninit
    · exact ⟨.error .notInitialized, trivial, fun t h => by
        simp [execShowGrid, h.busy, hb, h.mode, hm, Effect.apply]⟩
    · have idle : s.mode = .idle := by
        cases h : s.mode <;> simp_all [State.busy]
      exact ⟨.admitShow, ⟨idle, rfl⟩, fun t h => by simp [execShowGrid, h.busy, hb, h.mode, hm, Effect.apply]⟩

/-- The effect of CLEAR (R97). -/
theorem execClear_effect (s : State) :
    ∃ e : Effect, e.Fits .clear s ∧ ∀ t, SameForExec s t → execClear t = .next (e.apply t) := by
  cases hi : s.initialized with
  | false =>
    exact ⟨.error .notInitialized, trivial, fun t h => by simp [execClear, h.initialized, hi, Effect.apply]⟩
  | true =>
    exact ⟨.done none [], ⟨hi, .inr (.inr (.inr rfl))⟩, fun t h => by
      simp [execClear, h.initialized, hi, Effect.apply]⟩

/-- A command's accept step has one effect, the same from every state with what it reads. -/
theorem exec_effect (i : Instr) (s : State) :
    ∃ e : Effect, e.Fits i s ∧ ∀ t, SameForExec s t → exec i t = .next (e.apply t) := by
  cases i with
  | init count => exact execInit_effect count s
  | setpx k color => exact storePixel_effect _ (.inl ⟨k, color, rfl⟩) k (colorPixel color) s
  | setrgb k r g b => exact storePixel_effect _ (.inr (.inl ⟨k, r, g, b, rfl⟩)) k (channelsPixel r g b) s
  | clear => exact execClear_effect s
  | showGrid => exact execShowGrid_effect s
  | getpx k => exact execGetpx_effect k s

/-! ### The request and the end of a phase step -/

/-- A request as the phase steps send it, with the line level it leaves (R32, R36). -/
inductive Sending where
  | setup
  | cfg (pin : PinId)
  | sleep (ms : Nat)
  | data (level : Bool)
  | clock (level : Bool)

def Sending.apply : Sending → State → State
  | .setup, s => request .setup s
  | .cfg pin, s => request (.cfg pin) s
  | .sleep ms, s => request (.sleep ms) s
  | .data level, s => writeData level s
  | .clock level, s => writeClock level s

/-- The phase and the registers of the refresh (R27 to R31). -/
structure Registers where
  phase : Phase
  pulseCnt : BitVec 16
  pixIdx : Word
  bitIdx : BitVec 5
  shreg : FrameWord

/-- The registers of a state. -/
def registers (s : State) : Registers := ⟨s.phase, s.pulseCnt, s.pixIdx, s.bitIdx, s.shreg⟩

/-- How a phase step ends: the sequencer goes on, INIT fails or succeeds, SHOW is done. -/
inductive PhaseEnd where
  | goOn (r : Registers)
  | initFailed
  | initDone
  | showDone

def PhaseEnd.apply : PhaseEnd → State → State
  | .goOn r, s =>
    { s with phase := r.phase, pulseCnt := r.pulseCnt, pixIdx := r.pixIdx, bitIdx := r.bitIdx, shreg := r.shreg }
  | .initFailed, s => initFail s
  | .initDone, s => initSucceed s
  | .showDone, s => respondOn s.owner .ok none { s with mode := .idle, phase := .noPhase }

/-- Where a phase step can end so. -/
def PhaseEnd.Fits (a : Answer) (s : State) : PhaseEnd → Prop
  | .goOn _ => True
  | .initFailed => a = .fail ∧ phaseFits s.phase .initializing = true
  | .initDone => a = .ok ∧ s.phase = .iCfgC
  | .showDone => s.phase = .tSettle

/-- `s` with another status and another trace. -/
def withObserved (code : ResultCode) (trace : List Request) (s : State) : State :=
  { s with status := code, trace := trace }

/-- `F`, as a function of the status and the trace, always sends the same request and goes on with the same
registers. -/
def GoesOn (s : State) (F : State → State) : Prop :=
  ∃ (w : Sending) (r : Registers), ∀ code trace,
    F (withObserved code trace s) = (PhaseEnd.goOn r).apply (w.apply (withObserved code trace s))

theorem phaseTDlow_goesOn (s : State) : GoesOn s phaseTDlow := by
  by_cases pulses : 0#16 < s.cfg.preamblePulses
  · exact ⟨.data false, { registers s with phase := .tPreHi, pulseCnt := 0#16 }, fun _ _ => if_pos pulses⟩
  · by_cases pixels : 0#32 < s.N
    · exact ⟨.data false, { registers s with phase := .tBitD, pulseCnt := 0#16, pixIdx := 0#32, bitIdx := 24#5 },
        fun _ _ => (if_neg pulses).trans (if_pos pixels)⟩
    · exact ⟨.data false, { registers s with phase := .tBlkDlow, pulseCnt := 0#16 },
        fun _ _ => (if_neg pulses).trans (if_neg pixels)⟩

theorem phaseTPreHi_goesOn (s : State) : GoesOn s phaseTPreHi :=
  ⟨.clock true, { registers s with phase := .tPreLo }, fun _ _ => rfl⟩

theorem phaseTPreLo_goesOn (s : State) : GoesOn s phaseTPreLo := by
  by_cases last : s.pulseCnt + 1#16 = s.cfg.preamblePulses
  · by_cases pixels : 0#32 < s.N
    · exact ⟨.clock false,
        { registers s with phase := .tBitD, pulseCnt := s.pulseCnt + 1#16, pixIdx := 0#32, bitIdx := 24#5 },
        fun _ _ => (if_pos last).trans (if_pos pixels)⟩
    · exact ⟨.clock false, { registers s with phase := .tBlkDlow, pulseCnt := s.pulseCnt + 1#16 },
        fun _ _ => (if_pos last).trans (if_neg pixels)⟩
  · exact ⟨.clock false, { registers s with phase := .tPreHi, pulseCnt := s.pulseCnt + 1#16 },
      fun _ _ => if_neg last⟩

theorem phaseTBitHi_goesOn (s : State) : GoesOn s phaseTBitHi :=
  ⟨.clock true, { registers s with phase := .tBitLo }, fun _ _ => rfl⟩

theorem phaseTBitLo_goesOn (s : State) : GoesOn s phaseTBitLo := by
  by_cases bits : 0#5 < s.bitIdx
  · exact ⟨.clock false, { registers s with phase := .tBitD, bitIdx := s.bitIdx - 1#5 }, fun _ _ => if_pos bits⟩
  · by_cases pixels : s.pixIdx + 1#32 < s.N
    · exact ⟨.clock false, { registers s with phase := .tBitD, pixIdx := s.pixIdx + 1#32, bitIdx := 24#5 },
        fun _ _ => (if_neg bits).trans (if_pos pixels)⟩
    · exact ⟨.clock false, { registers s with phase := .tBlkDlow, pixIdx := s.pixIdx + 1#32 },
        fun _ _ => (if_neg bits).trans (if_neg pixels)⟩

theorem phaseTBlkDlow_goesOn (s : State) : GoesOn s phaseTBlkDlow := by
  by_cases pulses : 0#16 < s.cfg.blankPulses
  · exact ⟨.data false, { registers s with phase := .tBlkHi, pulseCnt := 0#16 }, fun _ _ => if_pos pulses⟩
  · exact ⟨.data false, { registers s with phase := .tSettle, pulseCnt := 0#16 }, fun _ _ => if_neg pulses⟩

theorem phaseTBlkHi_goesOn (s : State) : GoesOn s phaseTBlkHi :=
  ⟨.clock true, { registers s with phase := .tBlkLo }, fun _ _ => rfl⟩

theorem phaseTBlkLo_goesOn (s : State) : GoesOn s phaseTBlkLo := by
  by_cases last : s.pulseCnt + 1#16 = s.cfg.blankPulses
  · exact ⟨.clock false, { registers s with phase := .tSettle, pulseCnt := s.pulseCnt + 1#16 },
      fun _ _ => if_pos last⟩
  · exact ⟨.clock false, { registers s with phase := .tBlkHi, pulseCnt := s.pulseCnt + 1#16 },
      fun _ _ => if_neg last⟩

theorem sendBit_goesOn (s : State) (f : FrameWord) : GoesOn s fun t => sendBit { t with shreg := f } :=
  ⟨.data (f.getLsbD s.bitIdx.toNat), { registers s with phase := .tBitHi, shreg := f }, fun _ _ => rfl⟩

/-- The data write of a frame bit always faults, or always sends the bit of one frame register. -/
theorem phaseTBitD_effect (s : State) :
    (∃ r, ∀ code trace, phaseTBitD (withObserved code trace s) = .fault r) ∨
      ∃ f : FrameWord, ∀ code trace, phaseTBitD (withObserved code trace s) =
        .next (sendBit { withObserved code trace s with shreg := f }) := by
  by_cases high : 24#5 < s.bitIdx
  · exact .inl ⟨.noFrameBit, fun _ _ => if_pos high⟩
  · by_cases first : s.bitIdx = 24#5
    · cases hr : memRead s.pixIdx s with
      | none =>
        refine .inl ⟨.noElement, fun c tr => ?_⟩
        have noFrame : loadFrame (withObserved c tr s) = none := (if_pos first).trans (congrArg (Option.map _) hr)
        exact (if_neg high).trans (by rw [noFrame])
      | some v =>
        refine .inr ⟨frame v, fun c tr => ?_⟩
        have loaded : loadFrame (withObserved c tr s) = some { withObserved c tr s with shreg := frame v } :=
          (if_pos first).trans (congrArg (Option.map _) hr)
        exact (if_neg high).trans (by rw [loaded])
    · refine .inr ⟨s.shreg, fun c tr => ?_⟩
      have kept : loadFrame (withObserved c tr s) = some (withObserved c tr s) := if_neg first
      exact (if_neg high).trans (by rw [kept]; rfl)

/-- A phase step, as a function of the status and the trace, is always the same fault, or sends always the same
request and ends always the same way. -/
def PhaseStepIs (a : Answer) (s : State) : Prop :=
  (∃ r, ∀ code trace, phaseStep a (withObserved code trace s) = .fault r) ∨
    ∃ (w : Sending) (f : PhaseEnd), f.Fits a s ∧
      ∀ code trace, phaseStep a (withObserved code trace s) = .next (f.apply (w.apply (withObserved code trace s)))

theorem phaseStepIs_of_goesOn {a : Answer} {s : State} {F : State → State} (h : GoesOn s F)
    (hF : ∀ code trace, phaseStep a (withObserved code trace s) = .next (F (withObserved code trace s))) :
    PhaseStepIs a s := by
  obtain ⟨w, r, hr⟩ := h
  exact .inr ⟨w, .goOn r, trivial, fun c tr => by rw [hF, hr]⟩

/-- The phase steps of SHOW (R129 to R138). -/
theorem phaseStep_tx_effect (a : Answer) (s : State) (fits : phaseFits s.phase .tx = true) : PhaseStepIs a s := by
  have obs : ∀ c tr, (withObserved c tr s).phase = s.phase := fun _ _ => rfl
  cases hp : s.phase <;> simp only [hp, phaseFits, reduceCtorEq, decide_false, Bool.false_eq_true] at fits obs
  case tDlow => exact phaseStepIs_of_goesOn (phaseTDlow_goesOn s) fun c tr => by simp only [phaseStep, obs]
  case tPreHi => exact phaseStepIs_of_goesOn (phaseTPreHi_goesOn s) fun c tr => by simp only [phaseStep, obs]
  case tPreLo => exact phaseStepIs_of_goesOn (phaseTPreLo_goesOn s) fun c tr => by simp only [phaseStep, obs]
  case tBitD =>
    rcases phaseTBitD_effect s with ⟨r, h⟩ | ⟨f, h⟩
    · exact .inl ⟨r, fun c tr => by simp only [phaseStep, obs, h]⟩
    · exact phaseStepIs_of_goesOn (sendBit_goesOn s f) fun c tr => by simp only [phaseStep, obs, h]
  case tBitHi => exact phaseStepIs_of_goesOn (phaseTBitHi_goesOn s) fun c tr => by simp only [phaseStep, obs]
  case tBitLo => exact phaseStepIs_of_goesOn (phaseTBitLo_goesOn s) fun c tr => by simp only [phaseStep, obs]
  case tBlkDlow => exact phaseStepIs_of_goesOn (phaseTBlkDlow_goesOn s) fun c tr => by simp only [phaseStep, obs]
  case tBlkHi => exact phaseStepIs_of_goesOn (phaseTBlkHi_goesOn s) fun c tr => by simp only [phaseStep, obs]
  case tBlkLo => exact phaseStepIs_of_goesOn (phaseTBlkLo_goesOn s) fun c tr => by simp only [phaseStep, obs]
  case tSettle => exact .inr ⟨.sleep s.cfg.settleMs, .showDone, hp, fun c tr => by simp only [phaseStep, obs]; rfl⟩

/-- R27: the phases that go with INITIALIZING. -/
theorem initPhase_of_phaseFits (p : Phase) (h : phaseFits p .initializing = true) :
    p = .iSetup ∨ p = .iCfgD ∨ p = .iCfgC := by
  cases p <;> simp_all [phaseFits]

theorem phaseStepIs_initFailed {a : Answer} {s : State} (w : Sending)
    (fits : a = .fail ∧ phaseFits s.phase .initializing = true)
    (h : ∀ code trace, phaseStep a (withObserved code trace s) =
      .next (initFail (w.apply (withObserved code trace s)))) : PhaseStepIs a s :=
  .inr ⟨w, .initFailed, fits, h⟩

/-- The phase steps of INIT (R92, R93). -/
theorem phaseStep_init_effect (a : Answer) (s : State) (fits : phaseFits s.phase .initializing = true) :
    PhaseStepIs a s := by
  have obs : ∀ c tr, (withObserved c tr s).phase = s.phase := fun _ _ => rfl
  rcases initPhase_of_phaseFits s.phase fits with hp | hp | hp <;> rw [hp] at obs
  · cases a with
    | ok => exact .inr ⟨.setup, .goOn { registers s with phase := .iCfgD }, trivial, fun c tr => by
        simp only [phaseStep, obs]; rfl⟩
    | fail => exact phaseStepIs_initFailed .setup ⟨rfl, fits⟩ fun c tr => by simp only [phaseStep, obs]; rfl
  · cases a with
    | ok => exact .inr ⟨.cfg s.cfg.dataPin, .goOn { registers s with phase := .iCfgC }, trivial, fun c tr => by
        simp only [phaseStep, obs]; rfl⟩
    | fail =>
      exact phaseStepIs_initFailed (.cfg s.cfg.dataPin) ⟨rfl, fits⟩ fun c tr => by
        simp only [phaseStep, obs]; rfl
  · cases a with
    | ok => exact .inr ⟨.cfg s.cfg.clockPin, .initDone, ⟨rfl, hp⟩, fun c tr => by
        simp only [phaseStep, obs]; rfl⟩
    | fail =>
      exact phaseStepIs_initFailed (.cfg s.cfg.clockPin) ⟨rfl, fits⟩ fun c tr => by
        simp only [phaseStep, obs]; rfl

/-- R27: a phase is NONE, one of INIT's, or one of SHOW's. -/
theorem phase_kinds (p : Phase) :
    p = .noPhase ∨ phaseFits p .initializing = true ∨ phaseFits p .tx = true := by
  cases p <;> simp [phaseFits]

/-- Every phase step outside phase NONE. -/
theorem phaseStep_effect (a : Answer) (s : State) (hn : s.phase ≠ .noPhase) : PhaseStepIs a s := by
  rcases phase_kinds s.phase with none | init | refresh
  · exact absurd none hn
  · exact phaseStep_init_effect a s init
  · exact phaseStep_tx_effect a s refresh

/-- Everything a phase step that answers a next state can be: one request, then one of the four ends. -/
theorem phaseStep_cases (a : Answer) (s s' : State) (hn : s.phase ≠ .noPhase) (h : phaseStep a s = .next s') :
    ∃ (w : Sending) (f : PhaseEnd), f.Fits a s ∧ s' = f.apply (w.apply s) := by
  have same : withObserved s.status s.trace s = s := rfl
  rcases phaseStep_effect a s hn with ⟨r, e⟩ | ⟨w, f, fits, e⟩ <;> have e := e s.status s.trace <;>
    rw [same, h] at e <;> cases e
  exact ⟨w, f, fits, rfl⟩

end Sys2Proof.Machine
end

section
/-! PROOFS. What a step leaves alone and what it may change: the trace, the line levels, the mode, the count, the
buffer, the status and the responses; and that it reads neither the status nor the trace. -/

namespace Sys2Proof.Machine

/-! ### The fields after an effect, a request and the end of a phase step -/

@[simp] theorem Effect.apply_cfg (e : Effect) (s : State) : (e.apply s).cfg = s.cfg := by cases e <;> simp [apply]
@[simp] theorem Effect.apply_N (e : Effect) (s : State) : (e.apply s).N = s.N := by cases e <;> simp [apply]
@[simp] theorem Effect.apply_trace (e : Effect) (s : State) : (e.apply s).trace = s.trace := by
  cases e <;> simp [apply]
@[simp] theorem Effect.apply_dataLvl (e : Effect) (s : State) : (e.apply s).dataLvl = s.dataLvl := by
  cases e <;> simp [apply]
@[simp] theorem Effect.apply_clkLvl (e : Effect) (s : State) : (e.apply s).clkLvl = s.clkLvl := by
  cases e <;> simp [apply]

@[simp] theorem Sending.apply_cfg (w : Sending) (s : State) : (w.apply s).cfg = s.cfg := by cases w <;> rfl
@[simp] theorem Sending.apply_mode (w : Sending) (s : State) : (w.apply s).mode = s.mode := by cases w <;> rfl
@[simp] theorem Sending.apply_N (w : Sending) (s : State) : (w.apply s).N = s.N := by cases w <;> rfl
@[simp] theorem Sending.apply_buf (w : Sending) (s : State) : (w.apply s).buf = s.buf := by cases w <;> rfl
@[simp] theorem Sending.apply_status (w : Sending) (s : State) : (w.apply s).status = s.status := by cases w <;> rfl
@[simp] theorem Sending.apply_pendCount (w : Sending) (s : State) : (w.apply s).pendCount = s.pendCount := by
  cases w <;> rfl
@[simp] theorem Sending.apply_rsp0 (w : Sending) (s : State) : (w.apply s).rsp0 = s.rsp0 := by cases w <;> rfl
@[simp] theorem Sending.apply_rsp1 (w : Sending) (s : State) : (w.apply s).rsp1 = s.rsp1 := by cases w <;> rfl

/-- The request itself (R36). -/
def Sending.request (c : Config) : Sending → Request
  | .setup => .setup
  | .cfg pin => .cfg pin
  | .sleep ms => .sleep ms
  | .data level => .write c.dataPin level
  | .clock level => .write c.clockPin level

@[simp] theorem Sending.apply_trace (w : Sending) (s : State) :
    (w.apply s).trace = s.trace ++ [w.request s.cfg] := by cases w <;> rfl

@[simp] theorem PhaseEnd.apply_cfg (f : PhaseEnd) (s : State) : (f.apply s).cfg = s.cfg := by
  cases f <;> simp [apply, initFail, initSucceed]
@[simp] theorem PhaseEnd.apply_trace (f : PhaseEnd) (s : State) : (f.apply s).trace = s.trace := by
  cases f <;> simp [apply, initFail, initSucceed]
@[simp] theorem PhaseEnd.apply_dataLvl (f : PhaseEnd) (s : State) : (f.apply s).dataLvl = s.dataLvl := by
  cases f <;> simp [apply, initFail, initSucceed]
@[simp] theorem PhaseEnd.apply_clkLvl (f : PhaseEnd) (s : State) : (f.apply s).clkLvl = s.clkLvl := by
  cases f <;> simp [apply, initFail, initSucceed]

/-- Everything a command's accept step that answers a next state can be. -/
theorem exec_next_effect (i : Instr) (s s' : State) (h : exec i s = .next s') :
    ∃ e : Effect, e.Fits i s ∧ s' = e.apply s := by
  obtain ⟨e, fits, he⟩ := exec_effect i s
  have hs := he s ⟨rfl, rfl, rfl, fun _ => rfl⟩
  rw [h] at hs
  cases hs
  exact ⟨e, fits, rfl⟩

/-! ### The trace (R36) -/

/-- Settles O56: only a phase step sends, and it sends one request (`Sending.apply_trace`). -/
theorem oneRequestPerTakenStep : Obligations.OneRequestPerTakenStep := by
  intro s s' h notReset
  rcases step_cases s s' h with ⟨rfl, -⟩ | ⟨p, w, -, -, rfl⟩ | ⟨p, why, rest, -, -, rfl⟩ |
    ⟨p, i, rest, -, -, run⟩ | ⟨a, turn, hn, phase⟩ | ⟨reset, -⟩
  · exact .inl rfl
  · exact .inl (by simp)
  · exact .inl (by simp)
  · obtain ⟨e, -, rfl⟩ := exec_next_effect i _ s' run
    exact .inl (by simp)
  · obtain ⟨w, f, -, rfl⟩ := phaseStep_cases a (afterTurn s) s' hn phase
    exact .inr ⟨hn, ⟨a, turn⟩, w.request s.cfg, by simp⟩
  · exact absurd reset notReset

/-! ### The line levels (R32) -/

/-- The last level of a trace in two parts. -/
theorem lastLevel_append (p : PinId) (l : Level) (t u : List Request) :
    lastLevel p l (t ++ u) = lastLevel p (lastLevel p l t) u := by
  induction t generalizing l with
  | nil => rfl
  | cons e t ih => cases e <;> exact ih _

/-- A request keeps the levels those of the trace, where the pins differ. -/
theorem Sending.apply_levelsMatchTrace (w : Sending) (s : State) (wf : s.cfg.wf = true) (h : LevelsMatchTrace s) :
    LevelsMatchTrace (w.apply s) := by
  obtain ⟨data, clock⟩ := h
  have pins : s.cfg.dataPin ≠ s.cfg.clockPin := by simpa [Config.wf] using wf
  unfold LevelsMatchTrace
  rw [apply_trace, apply_cfg, lastLevel_append, lastLevel_append, ← data, ← clock]
  cases w <;> simp [apply, request, lastLevel, pins, pins.symm]

/-- Settles O52: only a request writes levels (`Sending.apply_levelsMatchTrace`), and reset empties the trace. -/
theorem stepKeepsLineLevels : Obligations.StepKeepsLineLevels := by
  intro s s' wf levels h
  have keep : ∀ u : State, u.cfg = s.cfg → u.dataLvl = s.dataLvl → u.clkLvl = s.clkLvl → u.trace = s.trace →
      LevelsMatchTrace u := by
    intro u hc hd hk ht
    unfold LevelsMatchTrace
    rw [hc, hd, hk, ht]
    exact levels
  rcases step_cases s s' h with ⟨rfl, -⟩ | ⟨p, w, -, -, rfl⟩ | ⟨p, why, rest, -, -, rfl⟩ |
    ⟨p, i, rest, -, -, run⟩ | ⟨a, turn, hn, phase⟩ | ⟨-, rfl⟩
  · exact levels
  · exact keep _ (by simp) (by simp) (by simp) (by simp)
  · exact keep _ (by simp) (by simp) (by simp) (by simp)
  · obtain ⟨e, -, rfl⟩ := exec_next_effect i _ s' run
    exact keep _ (by simp) (by simp) (by simp) (by simp)
  · obtain ⟨w, f, -, rfl⟩ := phaseStep_cases a (afterTurn s) s' hn phase
    simpa [LevelsMatchTrace] using w.apply_levelsMatchTrace (afterTurn s) wf levels
  · exact ⟨rfl, rfl⟩

/-! ### The mode, the count and the buffer (R22 to R24) -/

/-- R27: a phase other than NONE goes with one mode. -/
theorem mode_unique_of_phaseFits (p : Phase) (m n : Mode) (hp : p ≠ .noPhase) (hm : phaseFits p m = true)
    (hn : phaseFits p n = true) : m = n := by
  cases p <;> simp_all [phaseFits]

/-- Settles O54: the mode is written by an admitted INIT or SHOW, by the three ends of a phase step other than going
on, and by reset. -/
theorem modeTransitions : Obligations.ModeTransitions := by
  refine ⟨rfl, rfl, rfl, rfl, fun s s' inv h changed => ?_, fun s s' reset h => ?_⟩
  · obtain ⟨fits, -⟩ := inv
    rcases step_cases s s' h with ⟨rfl, -⟩ | ⟨p, w, -, -, rfl⟩ | ⟨p, why, rest, -, -, rfl⟩ |
      ⟨p, i, rest, acc, dec, run⟩ | ⟨a, turn, hn, phase⟩ | ⟨reset, rfl⟩
    · exact absurd rfl changed
    · simp at changed
    · simp at changed
    · obtain ⟨e, where_, rfl⟩ := exec_next_effect i _ s' run
      cases e with
      | error => simp [Effect.apply] at changed
      | done => simp [Effect.apply] at changed
      | admitInit count =>
        obtain ⟨mode, rfl⟩ := where_
        exact .inl ⟨by simpa using mode, rfl, rfl, p, count, rest, acc, dec⟩
      | admitShow =>
        obtain ⟨mode, rfl⟩ := where_
        exact .inr (.inr (.inr (.inl ⟨by simpa using mode, rfl, rfl, p, rest, acc, dec⟩)))
    · obtain ⟨w, f, where_, rfl⟩ := phaseStep_cases a (afterTurn s) s' hn phase
      cases f with
      | goOn => simp [PhaseEnd.apply] at changed
      | initFailed =>
        obtain ⟨rfl, init⟩ := where_
        have mode := mode_unique_of_phaseFits s.phase _ _ hn fits init
        exact .inr (.inr (.inl ⟨mode, by simp [PhaseEnd.apply, initFail], turn⟩))
      | initDone =>
        obtain ⟨rfl, last⟩ := where_
        have last : s.phase = .iCfgC := last
        have mode := mode_unique_of_phaseFits s.phase _ .initializing hn fits (by rw [last]; rfl)
        exact .inr (.inl ⟨mode, by simp [PhaseEnd.apply, initSucceed], last, turn⟩)
      | showDone =>
        have last : s.phase = .tSettle := where_
        have mode := mode_unique_of_phaseFits s.phase _ .tx hn fits (by rw [last]; rfl)
        exact .inr (.inr (.inr (.inr (.inl ⟨mode, by simp [PhaseEnd.apply], last, a, turn⟩))))
    · exact .inr (.inr (.inr (.inr (.inr ⟨rfl, reset⟩))))
  · rw [step_of_reset s reset] at h
    cases h
    rfl

/-- Settles O55: `N` is written by INIT's success alone; elements by a command that writes them, and by INIT's success,
which finds no buffer and leaves an empty one. -/
theorem countAndBufferWriters : Obligations.CountAndBufferWriters := by
  intro s s' inv h notReset
  rcases step_cases s s' h with ⟨rfl, -⟩ | ⟨p, w, -, -, rfl⟩ | ⟨p, why, rest, -, -, rfl⟩ |
    ⟨p, i, rest, acc, dec, run⟩ | ⟨a, turn, hn, phase⟩ | ⟨reset, -⟩
  · simp
  · simp
  · simp
  · obtain ⟨e, where_, rfl⟩ := exec_next_effect i _ s' run
    refine ⟨fun changed => by simp at changed, fun changed => ?_⟩
    cases e with
    | error => simp [Effect.apply] at changed
    | done data m =>
      obtain ⟨hi, same | writes⟩ := where_
      · simp [Effect.apply, same] at changed
      · exact ⟨by simpa using hi, (head_of_acceptsAt s p acc).1, p, i, rest, acc, dec, writes⟩
    | admitInit => simp [Effect.apply] at changed
    | admitShow => simp [Effect.apply] at changed
  · obtain ⟨w, f, where_, rfl⟩ := phaseStep_cases a (afterTurn s) s' hn phase
    cases f with
    | goOn => simp [PhaseEnd.apply]
    | initFailed => simp [PhaseEnd.apply, initFail]
    | initDone =>
      obtain ⟨rfl, last⟩ := where_
      have last : s.phase = .iCfgC := last
      have mode := mode_unique_of_phaseFits s.phase _ .initializing hn inv.1 (by rw [last]; rfl)
      obtain ⟨-, noBuffer, -⟩ := initFits_of_inv s inv mode
      exact ⟨fun _ => ⟨last, turn, by simp [PhaseEnd.apply, initSucceed]⟩,
        fun changed => by simp [PhaseEnd.apply, initSucceed, noBuffer] at changed⟩
    | showDone => simp [PhaseEnd.apply]
  · exact absurd reset notReset

/-! ### Status and responses (R25) -/

/-- Status and both response lists stand, or there is one response more, with its code in status. -/
def AtMostOneResponse (s s' : State) : Prop :=
  (s'.status = s.status ∧ s'.rsp0 = s.rsp0 ∧ s'.rsp1 = s.rsp1) ∨ ∃ p code data, Responded p code data s s'

/-- A response on any state with the same status and response lists is at most one. -/
theorem atMostOneResponse_respondOn (p : Port) (code : ResultCode) (data : Option Word) (s u : State)
    (h0 : u.rsp0 = s.rsp0) (h1 : u.rsp1 = s.rsp1) : AtMostOneResponse s (respondOn p code data u) :=
  .inr ⟨p, code, data, responded_respondOn p code data s u h0 h1⟩

theorem Effect.apply_atMostOneResponse (e : Effect) (s u : State) (hs : u.status = s.status) (h0 : u.rsp0 = s.rsp0)
    (h1 : u.rsp1 = s.rsp1) : AtMostOneResponse s (e.apply u) := by
  cases e with
  | error code => exact atMostOneResponse_respondOn _ _ _ _ _ h0 h1
  | done data buf => exact atMostOneResponse_respondOn _ _ _ _ _ h0 h1
  | admitInit count => exact .inl ⟨hs, h0, h1⟩
  | admitShow => exact .inl ⟨hs, h0, h1⟩

theorem PhaseEnd.apply_atMostOneResponse (f : PhaseEnd) (s u : State) (hs : u.status = s.status)
    (h0 : u.rsp0 = s.rsp0) (h1 : u.rsp1 = s.rsp1) : AtMostOneResponse s (f.apply u) := by
  cases f with
  | goOn r => exact .inl ⟨hs, h0, h1⟩
  | initFailed => exact atMostOneResponse_respondOn _ _ _ _ _ h0 h1
  | initDone => exact atMostOneResponse_respondOn _ _ _ _ _ h0 h1
  | showDone => exact atMostOneResponse_respondOn _ _ _ _ _ h0 h1

theorem step_atMostOneResponse (s s' : State) (h : step s = .next s') (notReset : s.turns.head? ≠ some .reset) :
    AtMostOneResponse s s' := by
  rcases step_cases s s' h with ⟨rfl, -⟩ | ⟨p, w, -, -, rfl⟩ | ⟨p, why, rest, -, -, rfl⟩ |
    ⟨p, i, rest, -, -, run⟩ | ⟨a, -, hn, phase⟩ | ⟨reset, -⟩
  · exact .inl ⟨rfl, rfl, rfl⟩
  · exact .inl (by simp)
  · exact atMostOneResponse_respondOn _ _ _ _ _ (by simp) (by simp)
  · obtain ⟨e, -, rfl⟩ := exec_next_effect i _ s' run
    exact e.apply_atMostOneResponse _ _ (by simp) (by simp) (by simp)
  · obtain ⟨w, f, -, rfl⟩ := phaseStep_cases a (afterTurn s) s' hn phase
    exact f.apply_atMostOneResponse _ _ (by simp) (by simp) (by simp)
  · exact absurd reset notReset

/-! ### Status and trace are never read (R25, R36) -/

/-- A response with another status or trace before it: the status is written over, the trace stays. -/
theorem respondOn_withObserved (p : Port) (k c : ResultCode) (d : Option Word) (tr : List Request) (s : State) :
    respondOn p k d (withObserved c tr s) = withObserved k tr (respondOn p k d s) := by
  cases p <;> rfl

theorem Effect.apply_withObserved (e : Effect) (s : State) :
    ∃ written : Option ResultCode, ∀ c tr,
      e.apply (withObserved c tr s) = withObserved (written.getD c) tr (e.apply s) := by
  cases e with
  | error code => exact ⟨some code, fun c tr => respondOn_withObserved _ _ _ _ _ _⟩
  | done data buf => exact ⟨some .ok, fun c tr => respondOn_withObserved _ _ _ _ _ { s with buf := buf }⟩
  | admitInit count => exact ⟨none, fun c tr => rfl⟩
  | admitShow => exact ⟨none, fun c tr => rfl⟩

theorem Sending.apply_withObserved (w : Sending) (c : ResultCode) (tr : List Request) (s : State) :
    w.apply (withObserved c tr s) = withObserved c (tr ++ [w.request s.cfg]) (w.apply s) := by
  cases w <;> rfl

theorem PhaseEnd.apply_withObserved (f : PhaseEnd) (s : State) :
    ∃ written : Option ResultCode, ∀ c tr,
      f.apply (withObserved c tr s) = withObserved (written.getD c) tr (f.apply s) := by
  cases f with
  | goOn r => exact ⟨none, fun c tr => rfl⟩
  | initFailed =>
    exact ⟨some .initFailed, fun c tr =>
      respondOn_withObserved _ _ _ _ _ { s with mode := .uninit, phase := .noPhase }⟩
  | initDone =>
    exact ⟨some .ok, fun c tr =>
      respondOn_withObserved _ _ _ _ _ { s with N := s.pendCount, buf := [], mode := .idle, phase := .noPhase }⟩
  | showDone =>
    exact ⟨some .ok, fun c tr =>
      respondOn_withObserved _ _ _ _ _ { s with mode := .idle, phase := .noPhase }⟩

/-- An outcome, as a function of the status and the trace before it, is always the same stop, or a next state with
the same requests appended, the same code written to status or none, and all else the same. -/
def ReadsNeither (o : ResultCode → List Request → Host.Outcome State Fault Refusal) : Prop :=
  (∃ stop, (∀ u, stop ≠ .next u) ∧ ∀ c tr, o c tr = stop) ∨
    ∃ (u : State) (written : Option ResultCode) (sent : List Request), ∀ c tr,
      o c tr = .next (withObserved (written.getD c) (tr ++ sent) u)

theorem consume_withObserved (p : Port) (rest : List Word) (c : ResultCode) (tr : List Request) (s : State) :
    consume p rest (withObserved c tr s) = withObserved c tr (consume p rest s) := by
  cases p <;> rfl

theorem exec_readsNeither (i : Instr) (s : State) : ReadsNeither fun c tr => exec i (withObserved c tr s) := by
  obtain ⟨e, -, he⟩ := exec_effect i s
  obtain ⟨written, hw⟩ := e.apply_withObserved s
  refine .inr ⟨e.apply s, written, [], fun c tr => ?_⟩
  have run := he (withObserved c tr s) ⟨rfl, rfl, rfl, fun _ => rfl⟩
  simp only [run, hw, List.append_nil]

theorem phaseStep_readsNeither (a : Answer) (s : State) :
    ReadsNeither fun c tr => phaseStep a (withObserved c tr s) := by
  by_cases hn : s.phase = .noPhase
  · exact .inr ⟨s, none, [], fun c tr => by simp [phaseStep_noPhase a (withObserved c tr s) hn]⟩
  · rcases phaseStep_effect a s hn with ⟨r, stop⟩ | ⟨w, f, -, effect⟩
    · exact .inl ⟨.fault r, by simp, stop⟩
    · obtain ⟨written, hw⟩ := f.apply_withObserved (w.apply s)
      exact .inr ⟨f.apply (w.apply s), written, [w.request s.cfg], fun c tr => by
        simp only [effect, w.apply_withObserved, hw]⟩

theorem play_readsNeither (m : Move) (s : State) (hm : m ≠ .reset) :
    ReadsNeither fun c tr => m.play (withObserved c tr s) := by
  cases m with
  | absent => exact .inl ⟨.refused .portAbsent, by simp, fun _ _ => rfl⟩
  | pass => exact .inr ⟨s, none, [], fun c tr => by simp [Move.play]⟩
  | host p w =>
    exact .inr ⟨setWords p (s.words p ++ [w]) s, none, [], fun c tr => by rw [List.append_nil]; cases p <;> rfl⟩
  | bad p rest =>
    exact .inr ⟨raiseError .badCommand (consume p rest s), some .badCommand, [], fun c tr => by
      simp only [Move.play, raiseError, consume_withObserved, respondOn_withObserved, List.append_nil]; rfl⟩
  | run p i rest => simpa only [Move.play, consume_withObserved] using exec_readsNeither i (consume p rest s)
  | phase a => exact phaseStep_readsNeither a s
  | reset => exact absurd rfl hm

/-- R25, R36: a step that is no reset reads neither the status nor the trace. -/
theorem step_readsNeither (s : State) (notReset : s.turns.head? ≠ some .reset) :
    ReadsNeither fun c tr => step (withObserved c tr s) := by
  have plays : ∀ c tr, step (withObserved c tr s) = (nextMove s).play (withObserved c tr (afterTurn s)) :=
    fun c tr => step_eq_play (withObserved c tr s)
  simpa only [plays] using play_readsNeither _ (afterTurn s) (nextMove_ne_reset s notReset)

/-- Settles O31: the outcome as a function of the status (`step_readsNeither`), read at the two values. -/
theorem statusFollowsEachResponse : Obligations.StatusFollowsEachResponse := by
  refine ⟨step_atMostOneResponse, fun s s' code h => ?_⟩
  by_cases reset : s.turns.head? = some .reset
  · left
    rw [← h, step_of_reset s reset, step_of_reset { s with status := code } reset]
    rfl
  · rcases step_readsNeither s reset with ⟨stop, stops, all⟩ | ⟨u, written, sent, all⟩
    · exact absurd ((all s.status s.trace).symm.trans h) (stops s')
    · have here : s' = withObserved (written.getD s.status) (s.trace ++ sent) u := by
        simpa using h.symm.trans (all s.status s.trace)
      have other := all code s.trace
      cases written with
      | some k => exact .inl (here ▸ other)
      | none => exact .inr (here ▸ ⟨rfl, other⟩)

/-- Settles O57: the outcome as a function of the trace (`step_readsNeither`), read at the two traces. -/
theorem traceIsNeverRead : Obligations.TraceIsNeverRead := by
  refine ⟨fun s s' tr h notReset => ?_, fun s s' tr h reset => ?_, fun s tr => ?_⟩
  · rcases step_readsNeither s notReset with ⟨stop, stops, all⟩ | ⟨u, written, sent, all⟩
    · exact absurd ((all s.status s.trace).symm.trans h) (stops s')
    · have here : s' = withObserved (written.getD s.status) (s.trace ++ sent) u := by
        simpa using h.symm.trans (all s.status s.trace)
      exact ⟨sent, here ▸ rfl, here ▸ all s.status tr⟩
  · rw [step_of_reset s reset] at h
    cases h
    exact ⟨rfl, step_of_reset { s with trace := tr } reset⟩
  · have same : (∀ u, step s ≠ .next u) → step { s with trace := tr } = step s := by
      intro stops
      have notReset : s.turns.head? ≠ some .reset := fun reset => stops _ (step_of_reset s reset)
      rcases step_readsNeither s notReset with ⟨stop, -, all⟩ | ⟨u, written, sent, all⟩
      · exact (all s.status tr).trans (all s.status s.trace).symm
      · exact absurd (all s.status s.trace) (stops _)
    exact ⟨fun r h => (same (by simp [h])).trans h, fun r h => (same (by simp [h])).trans h⟩

end Sys2Proof.Machine
end

section
/-! PROOFS. What the hosts' moves do: a word, an accept step, a port that holds its command. -/

namespace Sys2Proof.Machine

theorem acceptCommand_of_command (p : Port) (i : Instr) (rest : List Word) (s : State)
    (h : decode (s.words p) = .command i rest) : acceptCommand p s = exec i (consume p rest s) := by
  rw [acceptCommand, h]

theorem acceptTurn_of_takes (p : Port) (s : State) (present : s.portPresent p = true) (takes : s.portTakes p = true) :
    acceptTurn p s = acceptCommand p s := by
  simp [acceptTurn, present, takes]

theorem portPresent_of_turns (p : Port) (s : State) (ts : List Turn) :
    ({ s with turns := ts } : State).portPresent p = s.portPresent p := by cases p <;> rfl

theorem portTakes_of_turns (p : Port) (s : State) (ts : List Turn) :
    ({ s with turns := ts } : State).portTakes p = s.portTakes p := by cases p <;> rfl

theorem words_of_turns (p : Port) (s : State) (ts : List Turn) :
    ({ s with turns := ts } : State).words p = s.words p := by cases p <;> rfl

/-- Settles O7: the turn, or with none listed the sequencer's own order, leads to `acceptCommand` at the port. -/
theorem stepRunsTheDecodedCommand : Obligations.StepRunsTheDecodedCommand := by
  refine ⟨fun s p i rest ts ht present takes dec => ?_, fun s i rest ht free dec => ?_,
    fun s i rest ht present held dec => ?_, fun s p rest => ⟨?_, rfl, ?_, ?_, consume_sameButInput p rest s⟩⟩
  · calc step s = acceptTurn p { s with turns := ts } := step_of_turn s _ ts ht
      _ = acceptCommand p { s with turns := ts } :=
        acceptTurn_of_takes p _ (portPresent_of_turns p s ts ▸ present) (portTakes_of_turns p s ts ▸ takes)
      _ = exec i (consume p rest { s with turns := ts }) :=
        acceptCommand_of_command p i rest _ (words_of_turns p s ts ▸ dec)
  · have ready : s.commandReady .h0 = true := (commandReady_iff s .h0).2 ⟨by simp [free], by simp [dec]⟩
    calc step s = idleTurn s := step_of_no_turn s ht
      _ = acceptCommand .h0 s := if_pos ready
      _ = exec i (consume .h0 rest s) := acceptCommand_of_command .h0 i rest s dec
  · have notReady : ¬ s.commandReady .h0 = true := by
      rw [commandReady_iff]
      rintro ⟨takes, whole⟩
      rcases held with busy | incomplete
      · simp [busy] at takes
      · exact whole incomplete
    calc step s = idleTurn s := step_of_no_turn s ht
      _ = acceptCommand .h1 s := (if_neg notReady).trans (if_pos present)
      _ = exec i (consume .h1 rest s) := acceptCommand_of_command .h1 i rest s dec
  · simp [consume_words]
  · intro q hq
    simp [consume_words, hq]
  · simp

theorem setWords_words (p q : Port) (ws : List Word) (s : State) :
    (setWords p ws s).words q = if q = p then ws else s.words q := by
  cases p <;> cases q <;> rfl

/-- Settles O8: the host's turn (`hostTurn_cases`) writes the words of its port. -/
theorem hostTurnAppendsItsWord : Obligations.HostTurnAppendsItsWord := by
  intro s p w ts ht
  have turn : step s = hostTurn p w { s with turns := ts } := step_of_turn s _ ts ht
  rcases hostTurn_cases p w { s with turns := ts } with ⟨absent, e⟩ | ⟨present, e⟩ <;>
    simp only [portPresent_of_turns] at *
  · exact ⟨fun h => absurd h (by simp [absent]), fun _ => turn.trans e⟩
  · refine ⟨fun _ => ⟨_, turn.trans e, ?_, ?_, by simp, by simp, setWords_sameButInput p _ _⟩,
      fun h => absurd h (by simp [present])⟩
    · simp [setWords_words, words_of_turns]
    · intro q hq
      simp [setWords_words, words_of_turns, hq]

/-- Settles O44: the turn's port is there and takes nothing while busy (R40). -/
theorem cmd0HeldWhileBusy : Obligations.Cmd0HeldWhileBusy := by
  intro s ts busy ht
  have held : ¬ ({ s with turns := ts } : State).portPresent .h0 = false := by simp
  have holds : ({ s with turns := ts } : State).portTakes .h0 = false := by
    rw [portTakes_of_turns]
    simp [busy]
  calc step s = acceptTurn .h0 { s with turns := ts } := step_of_turn s _ ts ht
    _ = .next { s with turns := ts } := (if_neg held).trans (if_pos holds)

/-- The sequencer's registers, the line levels, the trace, the turns and the owner stand (R31, R61). -/
def KeepsRefresh (s s' : State) : Prop :=
  s'.turns = s.turns ∧ s'.mode = s.mode ∧ s'.phase = s.phase ∧ s'.N = s.N ∧ s'.pulseCnt = s.pulseCnt ∧
    s'.pixIdx = s.pixIdx ∧ s'.bitIdx = s.bitIdx ∧ s'.shreg = s.shreg ∧ s'.dataLvl = s.dataLvl ∧
    s'.clkLvl = s.clkLvl ∧ s'.trace = s.trace ∧ s'.owner = s.owner

/-- In TX an accept step answers an error or does a buffer command, so it leaves the refresh alone. -/
theorem acceptCommand_keepsRefresh (p : Port) (s : State) (mode : s.mode = .tx) :
    ∃ s', acceptCommand p s = .next s' ∧ KeepsRefresh s s' := by
  rcases acceptCommand_cases p s with ⟨-, e⟩ | ⟨why, rest, -, e⟩ | ⟨i, rest, -, e⟩
  · exact ⟨s, e, by simp [KeepsRefresh]⟩
  · exact ⟨_, e, by simp [KeepsRefresh]⟩
  · rw [e]
    rcases exec_cases i (consume p rest s) with ⟨code, -, done⟩ | ⟨data, m, -, -, done⟩ |
      ⟨count, -, uninit, -⟩ | ⟨-, idle, -⟩
    · exact ⟨_, done, by simp [KeepsRefresh]⟩
    · exact ⟨_, done, by simp [KeepsRefresh]⟩
    · simp [mode] at uninit
    · simp [mode] at idle

theorem portPresent_of_present (p : Port) (s : State) (h : (decide (p = .h0) || s.cfg.concurrentHost) = true) :
    s.portPresent p = true := by
  cases p <;> simp_all

/-- Settles O38: a word changes a port; an accept step, where it takes a command at all, is that of a TX state. -/
theorem hostMovesLeaveTheRefreshAlone : Obligations.HostMovesLeaveTheRefreshAlone := by
  intro s t ts mode hostSide present ht
  rw [step_of_turn s t ts ht]
  cases t with
  | host p w =>
    have here : ({ s with turns := ts } : State).portPresent p = true := portPresent_of_present p _ present
    rcases hostTurn_cases p w { s with turns := ts } with ⟨absent, -⟩ | ⟨-, e⟩
    · simp [here] at absent
    · exact ⟨_, e, by simp⟩
  | accept p =>
    have here : ({ s with turns := ts } : State).portPresent p = true := portPresent_of_present p _ present
    rcases acceptTurn_cases p { s with turns := ts } with ⟨absent, -⟩ | ⟨-, e⟩ | ⟨-, -, e⟩
    · simp [here] at absent
    · exact ⟨_, e, by simp⟩
    · obtain ⟨s', run, keeps⟩ := acceptCommand_keepsRefresh p { s with turns := ts } mode
      exact ⟨s', e.trans run, keeps⟩
  | take a => simp [Turn.isHostSide] at hostSide
  | reset => simp [Turn.isHostSide] at hostSide

end Sys2Proof.Machine
end

section
/-! PROOFS. The elements reset leaves unspecified (R39, V3) are written before they are read. -/

namespace Sys2Proof.Machine

/-- The elements reset leaves unspecified (R39). -/
structure Unspecified where
  N : Word
  pendCount : Word
  pulseCnt : BitVec 16
  pixIdx : Word
  bitIdx : BitVec 5
  shreg : FrameWord

/-- `s` with other values of those elements. -/
def withUnspecified (x : Unspecified) (s : State) : State :=
  { s with N := x.N, pendCount := x.pendCount, pulseCnt := x.pulseCnt, pixIdx := x.pixIdx, bitIdx := x.bitIdx,
           shreg := x.shreg }

@[simp] theorem withUnspecified_cfg (x : Unspecified) (s : State) : (withUnspecified x s).cfg = s.cfg := rfl

/-- The other values are those of `s` where a rule may read them before it writes them. -/
def Agrees (x : Unspecified) (s : State) : Prop :=
  (s.initialized = true → x.N = s.N) ∧ (s.mode = .initializing → x.pendCount = s.pendCount) ∧
    (s.phase ∈ [Phase.tPreHi, .tPreLo, .tBlkHi, .tBlkLo] → x.pulseCnt = s.pulseCnt) ∧
    (s.phase ∈ [Phase.tBitD, .tBitHi, .tBitLo] →
      x.pixIdx = s.pixIdx ∧ x.bitIdx = s.bitIdx ∧ (s.phase = .tBitD ∧ s.bitIdx = 24#5 ∨ x.shreg = s.shreg))

theorem sameButUnspecified_withUnspecified {x : Unspecified} {s : State} (h : Agrees x s) :
    SameButUnspecified s (withUnspecified x s) := ⟨rfl, h⟩

theorem exists_withUnspecified {s t : State} (h : SameButUnspecified s t) :
    ∃ x, t = withUnspecified x s ∧ Agrees x s :=
  ⟨⟨t.N, t.pendCount, t.pulseCnt, t.pixIdx, t.bitIdx, t.shreg⟩, h.1, h.2⟩

/-- The agreement looks at the mode, the phase and the elements themselves. -/
theorem Agrees.congr {x : Unspecified} {s u : State} (h : Agrees x s) (mode : u.mode = s.mode)
    (phase : u.phase = s.phase) (count : u.N = s.N) (pend : u.pendCount = s.pendCount)
    (pulse : u.pulseCnt = s.pulseCnt) (pixel : u.pixIdx = s.pixIdx) (bit : u.bitIdx = s.bitIdx)
    (shift : u.shreg = s.shreg) : Agrees x u := by
  simp only [Agrees, State.initialized, mode, phase, count, pend, pulse, pixel, bit, shift]
  exact h

/-! ### Responses and commands -/

theorem respondOn_withUnspecified (p : Port) (c : ResultCode) (d : Option Word) (x : Unspecified) (s : State) :
    respondOn p c d (withUnspecified x s) = withUnspecified x (respondOn p c d s) := by cases p <;> rfl

theorem consume_withUnspecified (p : Port) (ws : List Word) (x : Unspecified) (s : State) :
    consume p ws (withUnspecified x s) = withUnspecified x (consume p ws s) := by cases p <;> rfl

theorem setWords_withUnspecified (p : Port) (ws : List Word) (x : Unspecified) (s : State) :
    setWords p ws (withUnspecified x s) = withUnspecified x (setWords p ws s) := by cases p <;> rfl

theorem Agrees.respondOn {x : Unspecified} {s : State} (h : Agrees x s) (p : Port) (c : ResultCode)
    (d : Option Word) : Agrees x (respondOn p c d s) := by
  apply h.congr <;> simp

theorem Agrees.consume {x : Unspecified} {s : State} (h : Agrees x s) (p : Port) (ws : List Word) :
    Agrees x (consume p ws s) := by
  apply h.congr <;> simp

theorem Agrees.setWords {x : Unspecified} {s : State} (h : Agrees x s) (p : Port) (ws : List Word) :
    Agrees x (setWords p ws s) := by
  apply h.congr <;> simp

/-- A response keeps two states related. -/
theorem sameButUnspecified_respondOn {s t : State} (h : SameButUnspecified s t) (p : Port) (c : ResultCode)
    (d : Option Word) : SameButUnspecified (respondOn p c d s) (respondOn p c d t) := by
  obtain ⟨x, rfl, agrees⟩ := exists_withUnspecified h
  rw [respondOn_withUnspecified]
  exact sameButUnspecified_withUnspecified (agrees.respondOn p c d)

/-- The effect of a command keeps two states related. -/
theorem Effect.apply_sameButUnspecified (e : Effect) (i : Instr) (x : Unspecified) (s : State) (fits : e.Fits i s)
    (h : Agrees x s) : SameButUnspecified (e.apply s) (e.apply (withUnspecified x s)) := by
  cases e with
  | error code => exact sameButUnspecified_respondOn (sameButUnspecified_withUnspecified h) _ _ _
  | done data buf =>
    have written : SameButUnspecified { s with buf := buf } { withUnspecified x s with buf := buf } := ⟨rfl, h⟩
    exact sameButUnspecified_respondOn written _ _ _
  | admitInit count => exact ⟨rfl, by simp [State.initialized, apply]⟩
  | admitShow =>
    obtain ⟨idle, -⟩ := fits
    exact ⟨rfl, by simpa [State.initialized, apply, withUnspecified] using h.1 (initialized_of_idle s idle)⟩

theorem exec_sameButUnspecified (i : Instr) (x : Unspecified) (s s' : State) (h : Agrees x s)
    (run : exec i s = .next s') : ∃ t', exec i (withUnspecified x s) = .next t' ∧ SameButUnspecified s' t' := by
  obtain ⟨e, fits, he⟩ := exec_effect i s
  have here := he s ⟨rfl, rfl, rfl, fun _ => rfl⟩
  have there := he (withUnspecified x s) ⟨rfl, rfl, rfl, h.1⟩
  rw [run] at here
  cases here
  exact ⟨_, there, e.apply_sameButUnspecified i x s fits h⟩

/-! ### The phase steps of SHOW -/

/-- In TX two states that differ in unspecified elements only are related if those that the phase serves agree. -/
theorem sameButUnspecified_of_tx (x : Unspecified) (s : State) (mode : s.mode = .tx) (count : x.N = s.N)
    (pulse : s.phase ∈ [Phase.tPreHi, .tPreLo, .tBlkHi, .tBlkLo] → x.pulseCnt = s.pulseCnt)
    (frame : s.phase ∈ [Phase.tBitD, .tBitHi, .tBitLo] →
      x.pixIdx = s.pixIdx ∧ x.bitIdx = s.bitIdx ∧ (s.phase = .tBitD ∧ s.bitIdx = 24#5 ∨ x.shreg = s.shreg)) :
    SameButUnspecified s (withUnspecified x s) :=
  ⟨rfl, fun _ => count, fun init => absurd (mode.symm.trans init) (by simp), pulse, frame⟩

section
variable {x : Unspecified} {s : State}

theorem afterPreamble_sameButUnspecified (mode : s.mode = .tx) (count : x.N = s.N) :
    SameButUnspecified (afterPreamble s) (afterPreamble (withUnspecified x s)) := by
  have sameTest : 0#32 < (withUnspecified x s).N ↔ 0#32 < s.N := by simp only [withUnspecified, count]
  simp only [afterPreamble, sameTest]
  split
  · exact sameButUnspecified_of_tx { x with pixIdx := 0#32, bitIdx := 24#5 } _ mode count (by simp) (by simp)
  · exact sameButUnspecified_of_tx x _ mode count (by simp) (by simp)

theorem phaseTDlow_sameButUnspecified (mode : s.mode = .tx) (count : x.N = s.N) :
    SameButUnspecified (phaseTDlow s) (phaseTDlow (withUnspecified x s)) := by
  rw [phaseTDlow, phaseTDlow, withUnspecified_cfg]
  split
  · exact sameButUnspecified_of_tx { x with pulseCnt := 0#16 } _ mode count (fun _ => rfl) (by simp)
  · exact afterPreamble_sameButUnspecified (x := { x with pulseCnt := 0#16 })
      (s := { writeData false s with pulseCnt := 0#16 }) mode count

theorem phaseTPreHi_sameButUnspecified (mode : s.mode = .tx) (count : x.N = s.N) (pulse : x.pulseCnt = s.pulseCnt) :
    SameButUnspecified (phaseTPreHi s) (phaseTPreHi (withUnspecified x s)) :=
  sameButUnspecified_of_tx x (phaseTPreHi s) mode count (fun _ => pulse) (by simp [phaseTPreHi])

theorem phaseTPreLo_sameButUnspecified (mode : s.mode = .tx) (count : x.N = s.N) (pulse : x.pulseCnt = s.pulseCnt) :
    SameButUnspecified (phaseTPreLo s) (phaseTPreLo (withUnspecified x s)) := by
  have samePulse : (withUnspecified x s).pulseCnt = s.pulseCnt := pulse
  rw [phaseTPreLo, phaseTPreLo, samePulse, withUnspecified_cfg]
  split
  · exact afterPreamble_sameButUnspecified (x := { x with pulseCnt := s.pulseCnt + 1#16 })
      (s := { writeClock false s with pulseCnt := s.pulseCnt + 1#16 }) mode count
  · exact sameButUnspecified_of_tx { x with pulseCnt := s.pulseCnt + 1#16 } _ mode count (fun _ => rfl) (by simp)

/-- The data write of a frame's first bit loads the frame (R31, R132). -/
theorem phaseTBitD_of_first (s : State) (first : s.bitIdx = 24#5) (mode : s.mode ≠ .uninit) (pixel : s.pixIdx < s.N) :
    phaseTBitD s = .next (sendBit { s with shreg := frame (memLookup s.buf s.pixIdx.toNat) }) := by
  rcases phaseTBitD_cases s with ⟨high, -⟩ | ⟨-, out, -⟩ | ⟨-, -, -, e⟩ | ⟨below, -⟩
  · exact absurd high (by simp [first])
  · rcases out with h | h
    · exact absurd h mode
    · exact absurd pixel (BitVec.not_lt.2 h)
  · exact e
  · exact absurd below (by simp [first])

/-- The data write of any other bit sends it from the frame register (R132). -/
theorem phaseTBitD_of_later (s : State) (later : s.bitIdx < 24#5) : phaseTBitD s = .next (sendBit s) := by
  rcases phaseTBitD_cases s with ⟨high, -⟩ | ⟨first, -⟩ | ⟨first, -⟩ | ⟨-, e⟩
  · exact absurd (BitVec.lt_trans high later) (BitVec.lt_irrefl _)
  · exact absurd later (by simp [first])
  · exact absurd later (by simp [first])
  · exact e

theorem sendBit_sameButUnspecified (mode : s.mode = .tx) (count : x.N = s.N) (pixel : x.pixIdx = s.pixIdx)
    (bit : x.bitIdx = s.bitIdx) (shift : x.shreg = s.shreg) :
    SameButUnspecified (sendBit s) (sendBit (withUnspecified x s)) := by
  have sameBit : (withUnspecified x s).bitIdx = s.bitIdx := bit
  have sameShreg : (withUnspecified x s).shreg = s.shreg := shift
  have sent : sendBit (withUnspecified x s) = withUnspecified x (sendBit s) := by
    rw [sendBit, sameBit, sameShreg]
    rfl
  rw [sent]
  exact sameButUnspecified_of_tx x (sendBit s) mode count (by simp [sendBit]) (fun _ => ⟨pixel, bit, .inr shift⟩)

theorem phaseTBitD_sameButUnspecified {s' : State} (mode : s.mode = .tx) (count : x.N = s.N)
    (pixel : x.pixIdx = s.pixIdx) (bit : x.bitIdx = s.bitIdx) (shift : s.bitIdx = 24#5 ∨ x.shreg = s.shreg)
    (run : phaseTBitD s = .next s') :
    ∃ t', phaseTBitD (withUnspecified x s) = .next t' ∧ SameButUnspecified s' t' := by
  rcases phaseTBitD_cases s with ⟨-, e⟩ | ⟨-, -, e⟩ | ⟨first, hm, inRange, e⟩ | ⟨later, e⟩ <;>
    rw [e] at run <;> cases run
  · have inRange' : x.pixIdx < x.N := by rwa [pixel, count]
    refine ⟨_, phaseTBitD_of_first (withUnspecified x s) (bit.trans first) hm inRange', ?_⟩
    have sameElement : memLookup (withUnspecified x s).buf (withUnspecified x s).pixIdx.toNat =
        memLookup s.buf s.pixIdx.toNat := congrArg (fun k : Word => memLookup s.buf k.toNat) pixel
    rw [sameElement]
    exact sendBit_sameButUnspecified (x := { x with shreg := frame (memLookup s.buf s.pixIdx.toNat) })
      (s := { s with shreg := frame (memLookup s.buf s.pixIdx.toNat) }) mode count pixel bit rfl
  · have later' : x.bitIdx < 24#5 := by rwa [bit]
    have kept := shift.resolve_left fun first => absurd later (by simp [first])
    exact ⟨_, phaseTBitD_of_later (withUnspecified x s) later',
      sendBit_sameButUnspecified mode count pixel bit kept⟩

theorem phaseTBitHi_sameButUnspecified (mode : s.mode = .tx) (count : x.N = s.N) (pixel : x.pixIdx = s.pixIdx)
    (bit : x.bitIdx = s.bitIdx) (shift : x.shreg = s.shreg) :
    SameButUnspecified (phaseTBitHi s) (phaseTBitHi (withUnspecified x s)) :=
  sameButUnspecified_of_tx x (phaseTBitHi s) mode count (by simp [phaseTBitHi])
    (fun _ => ⟨pixel, bit, .inr shift⟩)

theorem phaseTBitLo_sameButUnspecified (mode : s.mode = .tx) (count : x.N = s.N) (pixel : x.pixIdx = s.pixIdx)
    (bit : x.bitIdx = s.bitIdx) (shift : x.shreg = s.shreg) :
    SameButUnspecified (phaseTBitLo s) (phaseTBitLo (withUnspecified x s)) := by
  have sameN : (withUnspecified x s).N = s.N := count
  have samePixel : (withUnspecified x s).pixIdx = s.pixIdx := pixel
  have sameBit : (withUnspecified x s).bitIdx = s.bitIdx := bit
  rw [phaseTBitLo, phaseTBitLo, sameN, samePixel, sameBit]
  split
  · exact sameButUnspecified_of_tx { x with bitIdx := s.bitIdx - 1#5 } _ mode count (by simp)
      (fun _ => ⟨pixel, rfl, .inr shift⟩)
  · split
    · exact sameButUnspecified_of_tx { x with pixIdx := s.pixIdx + 1#32, bitIdx := 24#5 } _ mode count (by simp)
        (fun _ => ⟨rfl, rfl, .inr shift⟩)
    · exact sameButUnspecified_of_tx { x with pixIdx := s.pixIdx + 1#32 } _ mode count (by simp) (by simp)

theorem phaseTBlkDlow_sameButUnspecified (mode : s.mode = .tx) (count : x.N = s.N) :
    SameButUnspecified (phaseTBlkDlow s) (phaseTBlkDlow (withUnspecified x s)) := by
  rw [phaseTBlkDlow, phaseTBlkDlow, withUnspecified_cfg]
  split
  · exact sameButUnspecified_of_tx { x with pulseCnt := 0#16 } _ mode count (fun _ => rfl) (by simp)
  · exact sameButUnspecified_of_tx { x with pulseCnt := 0#16 } _ mode count (by simp) (by simp)

theorem phaseTBlkHi_sameButUnspecified (mode : s.mode = .tx) (count : x.N = s.N) (pulse : x.pulseCnt = s.pulseCnt) :
    SameButUnspecified (phaseTBlkHi s) (phaseTBlkHi (withUnspecified x s)) :=
  sameButUnspecified_of_tx x (phaseTBlkHi s) mode count (fun _ => pulse) (by simp [phaseTBlkHi])

theorem phaseTBlkLo_sameButUnspecified (mode : s.mode = .tx) (count : x.N = s.N) (pulse : x.pulseCnt = s.pulseCnt) :
    SameButUnspecified (phaseTBlkLo s) (phaseTBlkLo (withUnspecified x s)) := by
  have samePulse : (withUnspecified x s).pulseCnt = s.pulseCnt := pulse
  rw [phaseTBlkLo, phaseTBlkLo, samePulse, withUnspecified_cfg]
  split
  · exact sameButUnspecified_of_tx { x with pulseCnt := s.pulseCnt + 1#16 } _ mode count (by simp) (by simp)
  · exact sameButUnspecified_of_tx { x with pulseCnt := s.pulseCnt + 1#16 } _ mode count (fun _ => rfl) (by simp)

theorem phaseTSettle_sameButUnspecified (count : x.N = s.N) :
    SameButUnspecified (phaseTSettle s) (phaseTSettle (withUnspecified x s)) := by
  apply sameButUnspecified_respondOn
  exact ⟨rfl, fun _ => count, by simp, by simp, by simp⟩

/-! ### The phase steps of INIT -/

/-- While INIT runs, two states that differ in unspecified elements only are related if `pend_count` agrees. -/
theorem sameButUnspecified_of_initializing (x : Unspecified) (s : State) (mode : s.mode = .initializing)
    (pend : x.pendCount = s.pendCount) (phase : s.phase = .iCfgD ∨ s.phase = .iCfgC) :
    SameButUnspecified s (withUnspecified x s) := by
  refine ⟨rfl, fun hi => absurd hi (by simp [State.initialized, mode]), fun _ => pend, ?_, ?_⟩ <;>
    rcases phase with h | h <;> simp [h]

theorem initFail_sameButUnspecified : SameButUnspecified (initFail s) (initFail (withUnspecified x s)) :=
  sameButUnspecified_respondOn ⟨rfl, by simp [State.initialized]⟩ _ _ _

theorem initSucceed_sameButUnspecified (pend : x.pendCount = s.pendCount) :
    SameButUnspecified (initSucceed s) (initSucceed (withUnspecified x s)) := by
  apply sameButUnspecified_respondOn
  exact ⟨rfl, fun _ => pend, by simp, by simp, by simp⟩

theorem phaseISetup_sameButUnspecified (a : Answer) (mode : s.mode = .initializing)
    (pend : x.pendCount = s.pendCount) :
    SameButUnspecified (phaseISetup a s) (phaseISetup a (withUnspecified x s)) := by
  cases a with
  | ok => exact sameButUnspecified_of_initializing x _ mode pend (.inl rfl)
  | fail => exact initFail_sameButUnspecified (x := x) (s := request .setup s)

theorem phaseICfgD_sameButUnspecified (a : Answer) (mode : s.mode = .initializing)
    (pend : x.pendCount = s.pendCount) :
    SameButUnspecified (phaseICfgD a s) (phaseICfgD a (withUnspecified x s)) := by
  cases a with
  | ok => exact sameButUnspecified_of_initializing x _ mode pend (.inr rfl)
  | fail => exact initFail_sameButUnspecified (x := x) (s := request (.cfg s.cfg.dataPin) s)

theorem phaseICfgC_sameButUnspecified (a : Answer) (pend : x.pendCount = s.pendCount) :
    SameButUnspecified (phaseICfgC a s) (phaseICfgC a (withUnspecified x s)) := by
  cases a with
  | ok => exact initSucceed_sameButUnspecified (x := x) (s := request (.cfg s.cfg.clockPin) s) pend
  | fail => exact initFail_sameButUnspecified (x := x) (s := request (.cfg s.cfg.clockPin) s)

end

/-- A phase step keeps two states related: its phase says which elements agree. -/
theorem phaseStep_sameButUnspecified (a : Answer) (x : Unspecified) (s s' : State)
    (fits : phaseFits s.phase s.mode = true) (agrees : Agrees x s) (run : phaseStep a s = .next s') :
    ∃ t', phaseStep a (withUnspecified x s) = .next t' ∧ SameButUnspecified s' t' := by
  have ⟨count, pend, pulse, bits⟩ := agrees
  have samePhase : (withUnspecified x s).phase = s.phase := rfl
  have countTx : s.mode = .tx → x.N = s.N := fun mode => count (initialized_of_tx s mode)
  cases hp : s.phase <;> simp only [phaseStep, samePhase, hp] at run ⊢ <;>
    simp only [phaseFits, hp, decide_eq_true_eq] at fits pulse bits
  case tBitD =>
    obtain ⟨pixel, bit, shift⟩ := bits (by simp)
    exact phaseTBitD_sameButUnspecified fits (countTx fits) pixel bit (shift.imp_left And.right) run
  all_goals cases run; refine ⟨_, rfl, ?_⟩
  case noPhase => exact sameButUnspecified_withUnspecified agrees
  case iSetup => exact phaseISetup_sameButUnspecified a fits (pend fits)
  case iCfgD => exact phaseICfgD_sameButUnspecified a fits (pend fits)
  case iCfgC => exact phaseICfgC_sameButUnspecified a (pend fits)
  case tDlow => exact phaseTDlow_sameButUnspecified fits (countTx fits)
  case tPreHi => exact phaseTPreHi_sameButUnspecified fits (countTx fits) (pulse (by simp))
  case tPreLo => exact phaseTPreLo_sameButUnspecified fits (countTx fits) (pulse (by simp))
  case tBitHi =>
    obtain ⟨pixel, bit, shift⟩ := bits (by simp)
    exact phaseTBitHi_sameButUnspecified fits (countTx fits) pixel bit (by simpa using shift)
  case tBitLo =>
    obtain ⟨pixel, bit, shift⟩ := bits (by simp)
    exact phaseTBitLo_sameButUnspecified fits (countTx fits) pixel bit (by simpa using shift)
  case tBlkDlow => exact phaseTBlkDlow_sameButUnspecified fits (countTx fits)
  case tBlkHi => exact phaseTBlkHi_sameButUnspecified fits (countTx fits) (pulse (by simp))
  case tBlkLo => exact phaseTBlkLo_sameButUnspecified fits (countTx fits) (pulse (by simp))
  case tSettle => exact phaseTSettle_sameButUnspecified (countTx fits)

/-! ### The step -/

/-- A move keeps two states related. -/
theorem play_sameButUnspecified (m : Move) (x : Unspecified) (s s' : State)
    (fits : phaseFits s.phase s.mode = true) (agrees : Agrees x s) (run : m.play s = .next s') :
    ∃ t', m.play (withUnspecified x s) = .next t' ∧ SameButUnspecified s' t' := by
  cases m with
  | absent => cases run
  | pass => cases run; exact ⟨_, rfl, sameButUnspecified_withUnspecified agrees⟩
  | host p w =>
    cases run
    have same : (withUnspecified x s).words p = s.words p := by cases p <;> rfl
    exact ⟨_, rfl, by
      rw [same, setWords_withUnspecified]
      exact sameButUnspecified_withUnspecified (agrees.setWords p _)⟩
  | bad p rest =>
    cases run
    exact ⟨_, rfl, by
      rw [consume_withUnspecified]
      exact sameButUnspecified_respondOn (sameButUnspecified_withUnspecified (agrees.consume p rest)) _ _ _⟩
  | run p i rest =>
    simp only [Move.play, consume_withUnspecified] at run ⊢
    exact exec_sameButUnspecified i x _ s' (agrees.consume p rest) run
  | phase a => exact phaseStep_sameButUnspecified a x s s' fits agrees run
  | reset => cases run; exact ⟨_, rfl, rfl, by simp [State.initialized]⟩

/-- Settles O58: the next move reads none of these elements (`nextMove`), so both states make the same one. -/
theorem unspecifiedNeverObserved : Obligations.UnspecifiedNeverObserved := by
  intro s s' t inv related h
  obtain ⟨x, rfl, agrees⟩ := exists_withUnspecified related
  obtain ⟨fits, -⟩ := inv
  rw [step_eq_play] at h ⊢
  exact play_sameButUnspecified (nextMove s) x (afterTurn s) s' fits agrees h

end Sys2Proof.Machine
end

section
/-! PROOFS. The pixel buffer (20_memory.md): the layout of an element, the bounds of every access, and a buffer command
done twice. -/

namespace Sys2Proof.Machine

/-! ### The layout of an element (R53) -/

/-- The or of two fields that do not overlap is a sum. -/
theorem or_shiftLeft_eq_add {low k : Nat} (h : low < 2 ^ k) (high : Nat) : low ||| high <<< k = low + high * 2 ^ k := by
  rw [Nat.or_comm, ← Nat.shiftLeft_add_eq_or_of_lt h, Nat.shiftLeft_eq, Nat.add_comm]

/-- R53's formula as a sum: the channels do not overlap. -/
theorem packRgb_toNat (r g b : Byte) : (packRgb r g b).toNat = b.toNat + g.toNat * 2 ^ 8 + r.toNat * 2 ^ 16 := by
  have fits (c : Byte) : c.toNat % 2 ^ 24 = c.toNat ∧ c.toNat <<< 8 % 2 ^ 24 = c.toNat <<< 8 ∧
      c.toNat <<< 16 % 2 ^ 24 = c.toNat <<< 16 := by
    simp only [Nat.shiftLeft_eq]
    omega
  calc (packRgb r g b).toNat = (b.toNat ||| g.toNat <<< 8) ||| r.toNat <<< 16 := by
        simp only [packRgb, BitVec.toNat_or, BitVec.toNat_shiftLeft, BitVec.toNat_setWidth, fits]
    _ = (b.toNat + g.toNat * 2 ^ 8) ||| r.toNat <<< 16 := by rw [or_shiftLeft_eq_add b.isLt]
    _ = b.toNat + g.toNat * 2 ^ 8 + r.toNat * 2 ^ 16 := or_shiftLeft_eq_add (by omega) _

/-- Settles O13: the fields are digits of the sum (`packRgb_toNat`). -/
theorem elementHoldsItsChannels : Obligations.ElementHoldsItsChannels := by
  intro r g b
  have sum := packRgb_toNat r g b
  refine ⟨?_, ?_, ?_, sum, rfl⟩ <;> apply BitVec.eq_of_toNat_eq <;>
    rw [BitVec.extractLsb'_toNat, Nat.shiftRight_eq_div_pow, sum] <;> omega

/-! ### What the buffer commands answer (R94 to R98) -/

@[simp] theorem respondOk_status (d : Option Word) (s : State) : (respondOk d s).status = .ok := rfl

@[simp] theorem respondOk_initialized (d : Option Word) (s : State) : (respondOk d s).initialized = s.initialized :=
  respondOn_initialized s.port .ok d s

theorem storePixel_of_not_initialized (k : Word) (v : Pixel) (s : State) (hi : s.initialized = false) :
    storePixel k v s = .next (raiseError .notInitialized s) := if_pos hi

theorem storePixel_of_out_of_range (k : Word) (v : Pixel) (s : State) (hi : s.initialized = true) (hk : s.N ≤ k) :
    storePixel k v s = .next (raiseError .outOfRange s) := by
  simp [storePixel, hi, hk]

theorem storePixel_of_in_range (k : Word) (v : Pixel) (s : State) (hi : s.initialized = true) (hk : k < s.N) :
    storePixel k v s = .next (respondOk none { s with buf := memInsert s.buf k.toNat v }) := by
  rcases storePixel_cases k v s with ⟨no, -⟩ | ⟨-, out, -⟩ | ⟨-, -, e⟩
  · exact absurd hi (by simp [no])
  · exact absurd hk (BitVec.not_lt.2 out)
  · exact e

theorem execClear_of_not_initialized (s : State) (hi : s.initialized = false) :
    execClear s = .next (raiseError .notInitialized s) := if_pos hi

theorem execClear_of_initialized (s : State) (hi : s.initialized = true) :
    execClear s = .next (respondOk none { s with buf := [] }) := if_neg (by simp [hi])

theorem execGetpx_of_out_of_range (k : Word) (s : State) (hi : s.initialized = true) (hk : s.N ≤ k) :
    execGetpx k s = .next (raiseError .outOfRange s) := by
  simp [execGetpx, hi, hk]

/-! ### The bounds of every access (R52) -/

/-- The data write of a frame bit answers a next state: the frame's pixel has an element, and its bit is no higher
than 24. -/
theorem phaseTBitD_next (s : State) (mode : s.mode ≠ .uninit) (pixel : s.pixIdx < s.N) (bit : s.bitIdx ≤ 24#5) :
    ∃ s', phaseTBitD s = .next s' := by
  by_cases first : s.bitIdx = 24#5
  · exact ⟨_, phaseTBitD_of_first s first mode pixel⟩
  · exact ⟨_, phaseTBitD_of_later s (by bv_omega)⟩

/-- A phase step of a state that meets the invariant answers a next state. -/
theorem phaseStep_next (a : Answer) (s : State) (inv : Inv s) : ∃ s', phaseStep a s = .next s' := by
  by_cases hp : s.phase = .tBitD
  · obtain ⟨fits, -, -, counters, -⟩ := inv
    have mode : s.mode = .tx := by simpa [phaseFits, hp] using fits
    have ⟨⟨pixel, bit⟩, _⟩ : (s.pixIdx < s.N ∧ s.bitIdx ≤ 24#5) ∧ (s.bitIdx = 24#5 ∨ s.shreg.getLsbD 24 = true) := by
      simpa [countersFit, hp] using counters
    simpa only [phaseStep, hp] using phaseTBitD_next s (by simp [mode]) pixel bit
  · cases h : s.phase <;> simp_all [phaseStep]

/-- No move of a state that meets the invariant faults. -/
theorem play_ne_fault (m : Move) (s : State) (inv : Inv s) (r : Fault) : m.play s ≠ .fault r := by
  cases m with
  | run p i rest =>
    obtain ⟨s', e⟩ := exec_next i (consume p rest s)
    simp [Move.play, e]
  | phase a =>
    obtain ⟨s', e⟩ := phaseStep_next a s inv
    simp [Move.play, e]
  | absent | pass | host p w | bad p rest | reset => simp [Move.play]

/-- Settles O51: a step is a move of the state with its turn used up (`step_eq_play`), which meets the invariant too. -/
theorem noOutOfRangeAccess : Obligations.NoOutOfRangeAccess := by
  refine ⟨fun s inv r => ?_, fun s k color r g b mode hk => ?_, fun s k v => ⟨?_, ?_⟩⟩
  · rw [step_eq_play]
    exact play_ne_fault (nextMove s) (afterTurn s) (afterTurn_inv s inv) r
  · have hi := (initialized_iff s).2 mode
    exact ⟨storePixel_of_out_of_range k (colorPixel color) s hi hk,
      storePixel_of_out_of_range k (channelsPixel r g b) s hi hk, execGetpx_of_out_of_range k s hi hk⟩
  · simp [Option.isSome_iff_exists, memRead_eq_some_iff, and_comm]
  · simp [Option.isSome_iff_exists, memWrite_eq_some_iff, and_comm]

/-! ### A buffer command done twice (R58) -/

/-- Writing the same value to an index again changes nothing. -/
theorem memInsert_memInsert_self (m : Memory) (k : Nat) (v : Pixel) (h : Memory.wf m = true) :
    memInsert (memInsert m k v) k v = memInsert m k v := by
  have once := memInsert_wf m k v h
  refine Memory.wf_ext _ _ (memInsert_wf _ k v once) once fun j => ?_
  by_cases hj : j = k
  · rw [hj, memLookup_memInsert_self _ k v once, memLookup_memInsert_self m k v h]
  · exact memLookup_memInsert_of_ne _ k j v hj

/-- R94: a command that finds its buffer already written only answers. -/
theorem respondOk_of_buf_eq (m : Memory) (s : State) (hb : s.buf = m) (hs : s.status = .ok) :
    respondOk none { s with buf := m } = respondOn s.port s.status none s := by
  subst hb
  exact congrArg (respondOn s.port · none s) hs.symm

/-- An error raised again is the same answer again. -/
theorem raiseError_of_status_eq (code : ResultCode) (s : State) (hs : s.status = code) :
    raiseError code s = respondOn s.port s.status none s := by
  rw [hs, raiseError]

/-- R58: SETPX and SETRGB done again only answer again, with the same code. -/
theorem storePixel_again (k : Word) (v : Pixel) (s s₁ : State) (wf : Memory.wf s.buf = true)
    (once : storePixel k v s = .next s₁) : storePixel k v s₁ = .next (respondOn s₁.port s₁.status none s₁) := by
  rcases storePixel_cases k v s with ⟨hi, e⟩ | ⟨hi, hk, e⟩ | ⟨hi, hk, e⟩ <;> rw [e] at once <;> cases once
  · rw [storePixel_of_not_initialized k v _ (by simp [hi]), raiseError_of_status_eq _ _ (by simp)]
  · rw [storePixel_of_out_of_range k v _ (by simp [hi]) (by simp [hk]), raiseError_of_status_eq _ _ (by simp)]
  · have written := memInsert_memInsert_self s.buf k.toNat v wf
    rw [storePixel_of_in_range k v _ (by simpa [State.initialized] using hi) (by simp [hk]),
      respondOk_of_buf_eq _ _ (by simp [written]) (by simp)]

/-- R58: CLEAR done again only answers again, with the same code. -/
theorem execClear_again (s s₁ : State) (once : execClear s = .next s₁) :
    execClear s₁ = .next (respondOn s₁.port s₁.status none s₁) := by
  cases hi : s.initialized with
  | false =>
    rw [execClear_of_not_initialized s hi] at once
    cases once
    rw [execClear_of_not_initialized _ (by simp [hi]), raiseError_of_status_eq _ _ (by simp)]
  | true =>
    rw [execClear_of_initialized s hi] at once
    cases once
    rw [execClear_of_initialized _ (by simpa [State.initialized] using hi),
      respondOk_of_buf_eq _ _ (by simp) (by simp)]

/-- Settles O25: the second time the command only answers again (`storePixel_again`, `execClear_again`). -/
theorem bufferCommandsIdempotent : Obligations.BufferCommandsIdempotent := by
  intro i s s₁ s₂ wf writes once twice
  have again : exec i s₁ = .next (respondOn s₁.port s₁.status none s₁) := by
    rcases writes with ⟨k, color, rfl⟩ | ⟨k, r, g, b, rfl⟩ | rfl
    · exact storePixel_again k (colorPixel color) s s₁ wf once
    · exact storePixel_again k (channelsPixel r g b) s s₁ wf once
    · exact execClear_again s s₁ once
  rw [again] at twice
  cases twice
  simp [SameButBufferAndResult]

end Sys2Proof.Machine
end

section
/-! PROOFS. The decoder and the encoder (30_encoding.md R70 to R75): a header picks a command by its `OPC` alone, and
with the operand words there only `RSV` is left to test. -/

namespace Sys2Proof

/-! ### What a command's words are -/

/-- R71, R74: the shape of an encoded command, for every command. -/
theorem encode_shape (i : Instr) : Laws.EncodeShape.Statement i :=
  match i with
  | .init count => Laws.EncodeShape.init count
  | .setpx index color => Laws.EncodeShape.setpx index color
  | .setrgb index r g b => Laws.EncodeShape.setrgb index r g b
  | .clear => Laws.EncodeShape.clear
  | .showGrid => Laws.EncodeShape.showGrid
  | .getpx index => Laws.EncodeShape.getpx index

theorem commandWords_headerWord (i : Instr) : commandWords (opcodeField (headerWord i)) = i.operands.length + 1 :=
  (encode_shape i).1.symm

/-- Words of the right number are the operands of a command of the same kind. -/
theorem exists_instr_with_operands (i : Instr) (ws : List Word) (h : ws.length = i.operands.length) :
    ∃ j : Instr, headerWord j = headerWord i ∧ j.mnemonic = i.mnemonic ∧ j.operands = ws := by
  cases i with
  | init _ =>
    obtain ⟨count, rfl⟩ := List.length_eq_one_iff.1 h
    exact ⟨.init count, rfl, rfl, rfl⟩
  | setpx _ _ =>
    obtain ⟨index, color, rfl⟩ := List.length_eq_two.1 h
    exact ⟨.setpx index color, rfl, rfl, rfl⟩
  | setrgb _ _ _ _ =>
    obtain ⟨index, r, g, b, rfl⟩ := List.length_eq_four.1 h
    exact ⟨.setrgb index r g b, rfl, rfl, rfl⟩
  | clear => exact ⟨.clear, rfl, rfl, (List.length_eq_zero_iff.1 h).symm⟩
  | showGrid => exact ⟨.showGrid, rfl, rfl, (List.length_eq_zero_iff.1 h).symm⟩
  | getpx _ =>
    obtain ⟨index, rfl⟩ := List.length_eq_one_iff.1 h
    exact ⟨.getpx index, rfl, rfl, rfl⟩

/-! ### The opcodes and headers of R74 -/

/-- The header words of R74's table. -/
abbrev commandHeaders : List Word :=
  [0x00000001#32, 0x00000002#32, 0x00000003#32, 0x00000004#32, 0x00000005#32, 0x00000006#32]

/-- The opcodes of R74's table; every other one is reserved. -/
abbrev definedOpcodes : List Byte := [0x01#8, 0x02#8, 0x03#8, 0x04#8, 0x05#8, 0x06#8]

theorem mem_headers_iff (header : Word) : header ∈ commandHeaders ↔ ∃ i, header = headerWord i := by
  constructor
  · simp only [List.mem_cons, List.not_mem_nil, or_false]
    rintro (rfl | rfl | rfl | rfl | rfl | rfl)
    · exact ⟨.init 0, rfl⟩
    · exact ⟨.setpx 0 0, rfl⟩
    · exact ⟨.setrgb 0 0 0 0, rfl⟩
    · exact ⟨.clear, rfl⟩
    · exact ⟨.showGrid, rfl⟩
    · exact ⟨.getpx 0, rfl⟩
  · rintro ⟨i, rfl⟩
    cases i <;> simp [headerWord]

theorem mem_opcodes_iff (opc : Byte) : opc ∈ definedOpcodes ↔ ∃ i, opc = opcodeField (headerWord i) := by
  have fields : definedOpcodes = commandHeaders.map opcodeField := by simp
  rw [fields, List.mem_map]
  constructor
  · rintro ⟨header, mem, rfl⟩
    obtain ⟨i, rfl⟩ := (mem_headers_iff header).1 mem
    exact ⟨i, rfl⟩
  · rintro ⟨i, rfl⟩
    exact ⟨headerWord i, (mem_headers_iff _).2 ⟨i, rfl⟩, rfl⟩

/-- R71: a reserved `OPC` is one word. -/
theorem commandWords_of_reserved (opc : Byte) (h : opc ∉ definedOpcodes) : commandWords opc = 1 := by
  simp only [List.mem_cons, List.not_mem_nil, or_false, not_or] at h
  obtain ⟨h1, h2, h3, -, -, h6⟩ := h
  simp [commandWords, h1, h2, h3, h6]

/-! ### What the decoder answers -/

/-- R75: with its operand words there, only the test of `RSV` is left. -/
theorem decode_of_operands (header : Word) (i : Instr) (rest : List Word)
    (h : opcodeField header = opcodeField (headerWord i)) :
    decode (header :: (i.operands ++ rest)) = checkReserved header i rest := by
  cases i <;> simp [decode, h, headerWord, Instr.operands, decodeInit, decodeSetpx, decodeSetrgb, decodeClear,
    decodeShow, decodeGetpx]

/-- R75: with an operand word missing, the decoder waits. -/
theorem decode_of_short (header : Word) (i : Instr) (words : List Word)
    (h : opcodeField header = opcodeField (headerWord i)) (short : words.length < i.operands.length) :
    decode (header :: words) = .incomplete := by
  cases i with
  | init count =>
    match words, short with
    | [], _ => simp [decode, h, headerWord, decodeInit]
  | setpx index color =>
    match words, short with
    | [], _ | [_], _ => simp [decode, h, headerWord, decodeSetpx]
  | setrgb index r g b =>
    match words, short with
    | [], _ | [_], _ | [_, _], _ | [_, _, _], _ => simp [decode, h, headerWord, decodeSetrgb]
  | clear => exact absurd short (Nat.not_lt_zero _)
  | showGrid => exact absurd short (Nat.not_lt_zero _)
  | getpx index =>
    match words, short with
    | [], _ => simp [decode, h, headerWord, decodeGetpx]

/-- R74, R76: a reserved `OPC` is a bad command of one word. -/
theorem decode_of_reserved (header : Word) (words : List Word) (h : opcodeField header ∉ definedOpcodes) :
    decode (header :: words) = .bad .reservedOpcode words := by
  simp only [List.mem_cons, List.not_mem_nil, or_false, not_or] at h
  obtain ⟨h1, h2, h3, h4, h5, h6⟩ := h
  simp [decode, h1, h2, h3, h4, h5, h6]

/-- Everything the decoder can make of a header and the words after it. -/
theorem decode_cases (header : Word) (words : List Word) :
    (opcodeField header ∉ definedOpcodes ∧ decode (header :: words) = .bad .reservedOpcode words) ∨
      (∃ i, opcodeField header = opcodeField (headerWord i) ∧ words.length < i.operands.length ∧
        decode (header :: words) = .incomplete) ∨
      (∃ i rest, opcodeField header = opcodeField (headerWord i) ∧ words = i.operands ++ rest ∧
        decode (header :: words) = checkReserved header i rest) := by
  by_cases mem : opcodeField header ∈ definedOpcodes
  · obtain ⟨i, hi⟩ := (mem_opcodes_iff _).1 mem
    by_cases short : words.length < i.operands.length
    · exact .inr (.inl ⟨i, hi, short, decode_of_short header i words hi short⟩)
    · obtain ⟨j, same, -, operands⟩ := exists_instr_with_operands i (words.take i.operands.length)
        (List.length_take_of_le (Nat.le_of_not_lt short))
      have hj : opcodeField header = opcodeField (headerWord j) := by rw [same, hi]
      have split : words = j.operands ++ words.drop i.operands.length := by rw [operands, List.take_append_drop]
      refine .inr (.inr ⟨j, _, hj, split, ?_⟩)
      calc decode (header :: words) = decode (header :: (j.operands ++ words.drop i.operands.length)) := by rw [← split]
        _ = checkReserved header j (words.drop i.operands.length) := decode_of_operands header j _ hj
  · exact .inl ⟨mem, decode_of_reserved header words mem⟩

/-- R71: after a command's words, `rest` is what dropping its length leaves. -/
theorem drop_commandWords (header : Word) (i : Instr) (rest : List Word)
    (h : opcodeField header = opcodeField (headerWord i)) :
    (header :: (i.operands ++ rest)).drop (commandWords (opcodeField header)) = rest := by
  rw [h, commandWords_headerWord, List.drop_succ_cons, List.drop_left]

/-! ### The statements -/

/-- Settles O1: the operand words are there and `RSV` of `headerWord i` is 0. -/
theorem encodedCommandDecodes : Obligations.EncodedCommandDecodes := by
  intro i rest
  calc decode (encode i ++ rest) = checkReserved (headerWord i) i rest := decode_of_operands _ i rest rfl
    _ = .command i rest := if_pos (reservedField_headerWord i)

/-- Settles O2: a header with a command's `OPC` and `RSV = 0` is that command's header (`header_ext`). -/
theorem decodedCommandIsItsEncoding : Obligations.DecodedCommandIsItsEncoding := by
  intro words i rest h
  cases words with
  | nil => cases h
  | cons header words =>
    rcases decode_cases header words with ⟨-, e⟩ | ⟨j, -, -, e⟩ | ⟨j, r, opc, rfl, e⟩ <;> rw [e] at h
    · cases h
    · cases h
    · obtain ⟨rsv, rfl, rfl⟩ := (checkReserved_eq_command_iff _ _ _ _ _).1 h
      rw [header_ext header (headerWord j) opc (by rw [rsv, reservedField_headerWord])]
      rfl

/-- R74: with four more words there, the headers that decode to a command are those of the six commands. -/
theorem decodes_iff_headerWord (header : Word) (words : List Word) (there : 4 ≤ words.length) :
    (∃ i rest, decode (header :: words) = .command i rest) ↔ ∃ i, header = headerWord i := by
  constructor
  · rintro ⟨i, rest, h⟩
    obtain ⟨head, -⟩ := List.cons.inj (decodedCommandIsItsEncoding _ i rest h)
    exact ⟨i, head⟩
  · rintro ⟨i, rfl⟩
    have enough : i.operands.length ≤ 4 := by cases i <;> simp [Instr.operands]
    rcases decode_cases (headerWord i) words with ⟨reserved, -⟩ | ⟨j, opc, short, -⟩ | ⟨j, rest, -, -, e⟩
    · exact absurd ((mem_opcodes_iff _).2 ⟨i, rfl⟩) reserved
    · have := commandWords_headerWord i
      rw [opc, commandWords_headerWord] at this
      omega
    · exact ⟨j, rest, e.trans (if_pos (reservedField_headerWord i))⟩

/-- R74: a header is a command's exactly when `RSV` is 0 and `OPC` is defined. -/
theorem exists_headerWord_iff (header : Word) :
    (∃ i, header = headerWord i) ↔ reservedField header = 0#24 ∧ opcodeField header ∈ definedOpcodes := by
  rw [mem_opcodes_iff]
  constructor
  · rintro ⟨i, rfl⟩
    exact ⟨reservedField_headerWord i, i, rfl⟩
  · rintro ⟨rsv, i, opc⟩
    exact ⟨i, header_ext header (headerWord i) opc (by rw [rsv, reservedField_headerWord])⟩

/-- Settles O3: the three sets of headers are the headers of the six commands. -/
theorem headerSelectsCommandExactly : Obligations.HeaderSelectsCommandExactly := by
  refine ⟨fun header words there => ⟨?_, ?_⟩, fun a b c d rest => ⟨?_, ?_, ?_, ?_, ?_, ?_⟩, decode_of_reserved⟩
  · rw [decodes_iff_headerWord header words there, exists_headerWord_iff]
  · rw [decodes_iff_headerWord header words there, mem_headers_iff]
  · exact encodedCommandDecodes (.init a) rest
  · exact encodedCommandDecodes (.setpx a b) rest
  · exact encodedCommandDecodes (.setrgb a b c d) rest
  · exact encodedCommandDecodes .clear rest
  · exact encodedCommandDecodes .showGrid rest
  · exact encodedCommandDecodes (.getpx a) rest

/-- R71, R75: the decoder waits exactly while fewer words are there than `OPC` asks for. -/
theorem decode_eq_incomplete_iff (header : Word) (words : List Word) :
    decode (header :: words) = .incomplete ↔ (header :: words).length < commandWords (opcodeField header) := by
  rcases decode_cases header words with ⟨reserved, e⟩ | ⟨i, opc, short, e⟩ | ⟨i, rest, opc, rfl, e⟩
  · simp [e, commandWords_of_reserved _ reserved]
  · simp [e, opc, commandWords_headerWord, short]
  · simp [e, opc, commandWords_headerWord]

/-- Settles O4: one count of words for each thing the decoder can answer (`decode_cases`). -/
theorem lengthFixedByOpcodeAlone : Obligations.LengthFixedByOpcodeAlone := by
  refine ⟨fun header words => ⟨decode_eq_incomplete_iff header words, fun i rest h => ?_, fun why rest h => ?_⟩,
    rfl, rfl, rfl, rfl, rfl, rfl, commandWords_of_reserved⟩
  · rcases decode_cases header words with ⟨-, e⟩ | ⟨j, -, -, e⟩ | ⟨j, r, opc, rfl, e⟩ <;> rw [e] at h
    · cases h
    · cases h
    · obtain ⟨-, -, rfl⟩ := (checkReserved_eq_command_iff _ _ _ _ _).1 h
      exact (drop_commandWords header j r opc).symm
  · rcases decode_cases header words with ⟨reserved, e⟩ | ⟨j, -, -, e⟩ | ⟨j, r, opc, rfl, e⟩ <;> rw [e] at h
    · cases h
      rw [commandWords_of_reserved _ reserved, List.drop_one, List.tail_cons]
    · cases h
    · obtain ⟨-, -, rfl⟩ := (checkReserved_eq_bad_iff _ _ _ _ _).1 h
      exact (drop_commandWords header j r opc).symm

/-- Settles O5: twelve fixed word lists, decoded. -/
theorem specVectorsDecode : Obligations.SpecVectorsDecode := by
  unfold Obligations.SpecVectorsDecode
  decide

end Sys2Proof
end

section
/-! PROOFS. The assembler of a split line (30_encoding.md R79): it is the encoder, on numbers. -/

namespace Sys2Proof.Machine

theorem operandCount_mnemonic (i : Instr) : operandCount i.mnemonic = some i.operands.length := by
  cases i <;> rfl

theorem mnemonicHeader_mnemonic (i : Instr) : mnemonicHeader i.mnemonic = some (headerWord i) := by
  cases i <;> rfl

/-- A word with an operand count is the mnemonic of a command with that many operands. -/
theorem exists_instr_of_operandCount (m : String) (n : Nat) (h : operandCount m = some n) :
    ∃ i : Instr, i.mnemonic = m ∧ i.operands.length = n := by
  have known : ∃ i : Instr, i.mnemonic = m := by
    unfold operandCount at h
    split_ifs at h with h1 h2 h3 h4 h5 h6
    · exact ⟨.init 0, h1.symm⟩
    · exact ⟨.setpx 0 0, h2.symm⟩
    · exact ⟨.setrgb 0 0 0 0, h3.symm⟩
    · exact ⟨.clear, h4.symm⟩
    · exact ⟨.showGrid, h5.symm⟩
    · exact ⟨.getpx 0, h6.symm⟩
  obtain ⟨i, rfl⟩ := known
  exact ⟨i, rfl, Option.some.inj ((operandCount_mnemonic i).symm.trans h)⟩

theorem command_wf_iff (m : String) (operands : List Nat) :
    (SourceLine.command m operands).wf = true ↔
      operandCount m = some operands.length ∧ ∀ n ∈ operands, n < 2 ^ 32 := by
  simp [SourceLine.wf, fitsWord]

/-- Numbers that fit a word are written by words. -/
theorem exists_words_of_fits (operands : List Nat) (h : ∀ n ∈ operands, n < 2 ^ 32) :
    ∃ ws : List Word, ws.map BitVec.toNat = operands := by
  refine ⟨operands.map (BitVec.ofNat 32), ?_⟩
  rw [List.map_map]
  exact (List.map_congr_left fun n hn => Nat.mod_eq_of_lt (h n hn)).trans (List.map_id _)

/-- R79: a command line that is well formed is a command's mnemonic with its operands. -/
theorem exists_instr_of_wf (m : String) (operands : List Nat) (h : (SourceLine.command m operands).wf = true) :
    ∃ i : Instr, m = i.mnemonic ∧ operands = i.operands.map BitVec.toNat := by
  obtain ⟨count, fits⟩ := (command_wf_iff m operands).1 h
  obtain ⟨ws, rfl⟩ := exists_words_of_fits operands fits
  obtain ⟨i, rfl, length⟩ := exists_instr_of_operandCount m _ count
  obtain ⟨j, -, same, rfl⟩ := exists_instr_with_operands i ws (by rw [length, List.length_map])
  exact ⟨j, same.symm, rfl⟩

/-- R79: a command's mnemonic with its operands assembles to its words. -/
theorem assembleLine_instr (i : Instr) :
    assembleLine (.command i.mnemonic (i.operands.map BitVec.toNat)) = some (encode i) := by
  have wf : (SourceLine.command i.mnemonic (i.operands.map BitVec.toNat)).wf = true := by
    rw [command_wf_iff, List.length_map]
    exact ⟨operandCount_mnemonic i, List.forall_mem_map.2 fun w _ => w.isLt⟩
  have words : (i.operands.map BitVec.toNat).map (BitVec.ofNat 32) = i.operands := by
    have inverse : BitVec.ofNat 32 ∘ BitVec.toNat = (id : Word → Word) := funext fun w => by simp
    rw [List.map_map, inverse, List.map_id]
  simp only [assembleLine, wf, if_true, mnemonicHeader_mnemonic, Option.map_some, words, encode]

theorem assembleLine_of_not_wf (l : SourceLine) (h : ¬ l.wf = true) : assembleLine l = none := if_neg h

/-- Settles O6: a command line assembles only if it is well formed, and then it is a command's (`exists_instr_of_wf`). -/
theorem assemblerEncodesCommands : Obligations.AssemblerEncodesCommands := by
  refine ⟨assembleLine_instr, fun m operands ill => assembleLine_of_not_wf _ ?_, fun m operands words h => ?_,
    fun w => ?_⟩
  · rw [command_wf_iff]
    rintro ⟨count, fits⟩
    rcases ill with wrong | ⟨n, mem, large⟩
    · exact wrong count
    · exact absurd (fits n mem) (Nat.not_lt.2 large)
  · by_cases wf : (SourceLine.command m operands).wf = true
    · obtain ⟨i, rfl, rfl⟩ := exists_instr_of_wf m operands wf
      rw [assembleLine_instr] at h
      exact ⟨i, rfl, rfl, (Option.some.inj h).symm⟩
    · rw [assembleLine_of_not_wf _ wf] at h
      cases h
  · simp [assembleLine, SourceLine.wf, fitsWord]

end Sys2Proof.Machine
end

section
/-! PROOFS. The accept step of what is no whole good command (30_encoding.md R75, R76), the operands (R73), CLEAR as its
loop of writes (R80) and the response words (R77). -/

namespace Sys2Proof.Machine

/-! ### Incomplete and bad commands at the accept step -/

theorem acceptCommand_of_incomplete (p : Port) (s : State) (h : decode (s.words p) = .incomplete) :
    acceptCommand p s = .next s := by
  rw [acceptCommand, h]

theorem acceptCommand_of_bad (p : Port) (why : BadHeader) (rest : List Word) (s : State)
    (h : decode (s.words p) = .bad why rest) :
    acceptCommand p s = .next (raiseError .badCommand (consume p rest s)) := by
  rw [acceptCommand, h]

/-- Settles O9: each way a step can reach the accept step (`acceptTurn_cases`, `idleTurn_cases`), and there it waits. -/
theorem incompleteCommandWaits : Obligations.IncompleteCommandWaits := by
  refine ⟨fun s p ts ht present dec => ?_, fun s ht held0 held1 => ?_⟩
  · rw [step_of_turn s _ ts ht, takeTurn]
    rcases acceptTurn_cases p { s with turns := ts } with ⟨absent, -⟩ | ⟨-, e⟩ | ⟨-, -, e⟩
    · rw [portPresent_of_turns, present] at absent
      cases absent
    · exact e
    · exact e.trans (acceptCommand_of_incomplete p _ (words_of_turns p s ts ▸ dec))
  · rw [step_of_no_turn s ht]
    rcases idleTurn_cases s with e | ⟨e, free⟩ | ⟨e, present, -⟩
    · exact e
    · exact e.trans (acceptCommand_of_incomplete .h0 s (held0.resolve_left (by simp [free])))
    · exact e.trans (acceptCommand_of_incomplete .h1 s (held1.resolve_left (by simp [present])))

/-- R76: an illegal header whose words are there is a bad command, and R75's words are consumed. -/
theorem decode_of_illegal (header : Word) (words : List Word)
    (illegal : opcodeField header ∉ definedOpcodes ∨ reservedField header ≠ 0#24)
    (there : commandWords (opcodeField header) ≤ (header :: words).length) :
    ∃ why, decode (header :: words) = .bad why ((header :: words).drop (commandWords (opcodeField header))) := by
  rcases decode_cases header words with ⟨reserved, e⟩ | ⟨i, -, -, e⟩ | ⟨i, rest, opc, rfl, e⟩
  · exact ⟨.reservedOpcode, by rw [commandWords_of_reserved _ reserved]; exact e⟩
  · exact absurd ((decode_eq_incomplete_iff header words).1 e) (Nat.not_lt.2 there)
  · have rsv : reservedField header ≠ 0#24 := illegal.resolve_left (not_not.2 ((mem_opcodes_iff _).2 ⟨i, opc⟩))
    refine ⟨.reservedBits, ?_⟩
    rw [drop_commandWords header i rest opc]
    exact e.trans (if_neg rsv)

/-- Settles O11: the accept turn raises BAD_COMMAND on the state with the words consumed (`decode_of_illegal`). -/
theorem badCommandOnlyAnswers : Obligations.BadCommandOnlyAnswers := by
  refine ⟨rfl, fun s p ts header words ht present takes hw illegal there => ?_⟩
  obtain ⟨why, dec⟩ := decode_of_illegal header words illegal there
  have answers : step s = .next (raiseError .badCommand (consume p
      ((header :: words).drop (commandWords (opcodeField header))) { s with turns := ts })) :=
    calc step s = acceptTurn p { s with turns := ts } := step_of_turn s _ ts ht
      _ = acceptCommand p { s with turns := ts } :=
        acceptTurn_of_takes p _ (portPresent_of_turns p s ts ▸ present) (portTakes_of_turns p s ts ▸ takes)
      _ = _ := acceptCommand_of_bad p why _ _ (by rw [words_of_turns, hw, dec])
  refine ⟨_, answers, responded_respondOn p .badCommand none s _ (by simp) (by simp), by simp, ?_⟩
  simp [SameButBufferAndResult]

/-! ### Operands (R73) -/

/-- R73: the stored colour is the masked operand. -/
theorem colorPixel_setWidth (color : Word) : (colorPixel color).setWidth 32 = color &&& 0x00FFFFFF#32 := by
  have small : (color &&& 0x00FFFFFF#32).toNat ≤ 0x00FFFFFF := by
    rw [BitVec.toNat_and]
    exact Nat.and_le_right
  apply BitVec.eq_of_toNat_eq
  rw [BitVec.toNat_setWidth, colorPixel, BitVec.extractLsb'_toNat, Nat.shiftRight_zero]
  omega

/-- R73: a clamped channel fits its byte. -/
theorem clamp8_toNat (x : Word) : (clamp8 x).toNat = min x.toNat 255 := by
  rw [clamp8, BitVec.toNat_ofNat]
  omega

/-- Settles O12. -/
theorem operandsMaskedAndClamped : Obligations.OperandsMaskedAndClamped :=
  ⟨colorPixel_setWidth, clamp8_toNat⟩

/-! ### CLEAR as its loop of writes (R80, R97) -/

/-- The buffer after writing `v` at 0, 1, …, n - 1 in turn. -/
def fillBelow (v : Pixel) (m : Memory) (n : Nat) : Memory :=
  (List.range n).foldl (fun m k => memInsert m k v) m

theorem fillBelow_succ (v : Pixel) (m : Memory) (n : Nat) :
    fillBelow v m (n + 1) = memInsert (fillBelow v m n) n v := by
  rw [fillBelow, List.range_succ, List.foldl_concat, fillBelow]

theorem fillBelow_wf (v : Pixel) (m : Memory) (n : Nat) (h : Memory.wf m = true) :
    Memory.wf (fillBelow v m n) = true := by
  induction n with
  | zero => exact h
  | succ n ih =>
    rw [fillBelow_succ]
    exact memInsert_wf _ n v ih

/-- Filling writes the elements below the bound and leaves the others. -/
theorem memLookup_fillBelow (v : Pixel) (m : Memory) (n k : Nat) (h : Memory.wf m = true) :
    memLookup (fillBelow v m n) k = if k < n then v else memLookup m k := by
  induction n with
  | zero => rfl
  | succ n ih =>
    rw [fillBelow_succ]
    by_cases hk : k = n
    · rw [hk, memLookup_memInsert_self _ n v (fillBelow_wf v m n h), if_pos n.lt_succ_self]
    · have bound : k < n + 1 ↔ k < n := by omega
      rw [memLookup_memInsert_of_ne _ n k v hk, ih]
      simp only [bound]

/-- An index that is not listed reads as 0. -/
theorem memLookup_of_not_listed (m : Memory) (k : Nat) (h : ∀ c ∈ m, c.1 ≠ k) : memLookup m k = 0#24 := by
  induction m with
  | nil => rfl
  | cons c m ih =>
    rw [memLookup_cons, if_neg (h c List.mem_cons_self)]
    exact ih fun d hd => h d (List.mem_cons_of_mem c hd)

/-- Filling a buffer of `n` elements with 0 empties its list. -/
theorem fillBelow_zero (m : Memory) (n : Nat) (h : Memory.wf m = true) (below : ∀ c ∈ m, c.1 < n) :
    fillBelow 0#24 m n = [] := by
  refine Memory.wf_ext _ [] (fillBelow_wf _ m n h) rfl fun k => ?_
  rw [memLookup_fillBelow _ m n k h, memLookup_nil]
  split
  · rfl
  · exact memLookup_of_not_listed m k fun c hc => by have := below c hc; omega

theorem channelsPixel_zero : channelsPixel 0#32 0#32 0#32 = 0#24 := by decide

/-- Settles O24: the invariant's buffer lists only indices below `N`, so the loop leaves the empty list too. -/
theorem clearIsItsLoop : Obligations.ClearIsItsLoop := by
  intro s inv hi
  obtain ⟨-, buffer, -⟩ := inv
  obtain ⟨wf, below⟩ := (bufferFits_iff_of_initialized s hi).1 buffer
  have loop : (List.range s.N.toNat).foldl (fun m k => memInsert m k (channelsPixel 0#32 0#32 0#32)) s.buf = [] := by
    rw [channelsPixel_zero]
    exact fillBelow_zero s.buf s.N.toNat wf below
  rw [loop]
  exact execClear_of_initialized s hi

/-! ### Responses (R77) -/

/-- R77: the data word of a command answered OK. -/
def okData (s : State) : Instr → Option Word
  | .getpx index => some ((memLookup s.buf index.toNat).setWidth 32)
  | .init _ | .setpx _ _ | .setrgb _ _ _ _ | .clear | .showGrid => none

theorem okData_isSome_iff (i : Instr) (s : State) : (okData s i).isSome = true ↔ ∃ index, i = .getpx index := by
  cases i <;> simp [okData]

/-- What an accept step can answer: an error, OK with the command's data, or nothing yet. -/
def AnswersItsData (i : Instr) (s : State) : Prop :=
  (∃ code, code ≠ .ok ∧ exec i s = .next (raiseError code s)) ∨
    (∃ m, exec i s = .next (respondOk (okData s i) { s with buf := m })) ∨
    (∃ s', exec i s = .next s' ∧ s'.rsp0 = s.rsp0 ∧ s'.rsp1 = s.rsp1)

theorem storePixel_answersItsData (i : Instr) (k : Word) (v : Pixel) (s : State) (data : okData s i = none)
    (body : exec i s = storePixel k v s) : AnswersItsData i s := by
  rw [AnswersItsData, data, body]
  rcases storePixel_cases k v s with ⟨-, e⟩ | ⟨-, -, e⟩ | ⟨-, -, e⟩
  · exact .inl ⟨_, by decide, e⟩
  · exact .inl ⟨_, by decide, e⟩
  · exact .inr (.inl ⟨_, e⟩)

/-- R77, R90: every command's accept step answers so. -/
theorem exec_answersItsData (i : Instr) (s : State) : AnswersItsData i s := by
  cases i with
  | init count =>
    simp only [AnswersItsData, exec, execInit]
    split_ifs
    · exact .inl ⟨_, by decide, rfl⟩
    · exact .inl ⟨_, by decide, rfl⟩
    · exact .inl ⟨_, by decide, rfl⟩
    · exact .inr (.inr ⟨_, rfl, rfl, rfl⟩)
  | setpx k color => exact storePixel_answersItsData _ k (colorPixel color) s rfl rfl
  | setrgb k r g b => exact storePixel_answersItsData _ k (channelsPixel r g b) s rfl rfl
  | clear =>
    cases hi : s.initialized with
    | false => exact .inl ⟨_, by decide, execClear_of_not_initialized s hi⟩
    | true => exact .inr (.inl ⟨[], execClear_of_initialized s hi⟩)
  | showGrid =>
    simp only [AnswersItsData, exec, execShowGrid]
    split_ifs
    · exact .inl ⟨_, by decide, rfl⟩
    · exact .inl ⟨_, by decide, rfl⟩
    · exact .inr (.inr ⟨_, rfl, rfl, rfl⟩)
  | getpx k =>
    rcases execGetpx_cases k s with ⟨-, e⟩ | ⟨-, -, e⟩ | ⟨-, -, e⟩
    · exact .inl ⟨_, by decide, e⟩
    · exact .inl ⟨_, by decide, e⟩
    · exact .inr (.inl ⟨s.buf, e⟩)

/-- R77: an accept step's response has the command's data exactly when its code is OK. -/
theorem data_of_responded (i : Instr) (s s' : State) (code : ResultCode) (data : Option Word)
    (h : exec i s = .next s') (resp : Responded s.port code data s s') :
    data = if code = .ok then okData s i else none := by
  rcases exec_answersItsData i s with ⟨c, notOk, e⟩ | ⟨m, e⟩ | ⟨u, e, same0, same1⟩ <;> rw [e] at h <;> cases h
  · obtain ⟨rfl, rfl⟩ := responded_unique _ _ _ _ _ _ _ resp (responded_respondOn s.port c none s s rfl rfl)
    rw [if_neg notOk]
  · obtain ⟨rfl, rfl⟩ := responded_unique _ _ _ _ _ _ _ resp
      (responded_respondOn s.port .ok (okData s i) s { s with buf := m } rfl rfl)
    rfl
  · exact absurd resp (not_responded _ _ _ _ _ same0 same1)

/-- R77: a byte in a response word is its low field, with zeros above it. -/
theorem setWidth_fields (b : Byte) : (b.setWidth 32).extractLsb' 0 8 = b ∧ (b.setWidth 32).extractLsb' 8 24 = 0#24 := by
  have value : (b.setWidth 32).toNat = b.toNat := BitVec.toNat_setWidth_of_le (by decide)
  constructor <;> apply BitVec.eq_of_toNat_eq <;>
    rw [BitVec.extractLsb'_toNat, value, Nat.shiftRight_eq_div_pow]
  · omega
  · rw [Nat.div_eq_of_lt b.isLt]
    rfl

/-- Settles O29: the status byte is the low field of its word, and the data is the command's (`data_of_responded`). -/
theorem responseWordLayout : Obligations.ResponseWordLayout := by
  refine ⟨fun r => ⟨_, rfl, setWidth_fields (codeByte r.status)⟩, fun i s s' code data h resp => ?_⟩
  rw [data_of_responded i s s' code data h resp]
  by_cases ok : code = .ok
  · simp only [ok, if_true, okData_isSome_iff, true_and, iff_self]
    rintro index rfl -
    rfl
  · simp [ok]

end Sys2Proof.Machine
end

section
/-! PROOFS. SETPX, SETRGB, CLEAR and GETPX (40_pixel_buffer.md R94, R95, R97, R98): what each answers and what it leaves
alone. -/

namespace Sys2Proof.Machine

/-! ### The response OK of a buffer command (R90) -/

/-- A buffer command writes the buffer and answers, and nothing else. -/
theorem respondOk_frame (data : Option Word) (m : Memory) (s : State) :
    Responded s.port .ok data s (respondOk data { s with buf := m }) ∧
      SameButBufferAndResult s (respondOk data { s with buf := m }) :=
  ⟨responded_respondOn s.port .ok data s _ rfl rfl, by simp [SameButBufferAndResult, respondOk]⟩

/-- R34: `initialized` does not hold in the modes of NOT_INITIALIZED. -/
theorem not_initialized_of_mode (s : State) (mode : s.mode = .uninit ∨ s.mode = .initializing) :
    s.initialized = false :=
  mode.elim (not_initialized_of_uninit s) (not_initialized_of_initializing s)

/-! ### SETPX and SETRGB -/

/-- R94, R95: with an index below `N`, the shared body stores the element and changes no other. -/
theorem storePixel_stores (k : Word) (v : Pixel) (s : State) (wf : Memory.wf s.buf = true)
    (mode : s.mode = .idle ∨ s.mode = .tx) (hk : k < s.N) :
    ∃ s', storePixel k v s = .next s' ∧ memRead k s' = some v ∧
      (∀ j, j ≠ k.toNat → memLookup s'.buf j = memLookup s.buf j) ∧
      Responded s.port .ok none s s' ∧ SameButBufferAndResult s s' := by
  have hi := (initialized_iff s).2 mode
  obtain ⟨answer, frame⟩ := respondOk_frame none (memInsert s.buf k.toNat v) s
  refine ⟨_, storePixel_of_in_range k v s hi hk, ?_, fun j hj => ?_, answer, frame⟩
  · rw [memRead_eq_some_iff, respondOk_mode, respondOk_N, respondOk_buf]
    exact ⟨mode_ne_uninit_of_initialized s hi, hk, memLookup_memInsert_self s.buf k.toNat v wf⟩
  · rw [respondOk_buf]
    exact memLookup_memInsert_of_ne s.buf k.toNat j v hj

/-- Settles O19: the body of SETPX with the masked colour (`colorPixel_setWidth`). -/
theorem setpxStoresMaskedColor : Obligations.SetpxStoresMaskedColor := by
  intro s index color wf
  refine ⟨rfl, fun mode => storePixel_of_not_initialized index _ s (not_initialized_of_mode s mode),
    fun mode => storePixel_of_out_of_range index _ s ((initialized_iff s).2 mode), fun mode hk => ?_⟩
  obtain ⟨s', run, read, rest⟩ := storePixel_stores index (colorPixel color) s wf mode hk
  exact ⟨s', colorPixel color, run, read, colorPixel_setWidth color, rest⟩

/-- Settles O20: the same body with the clamped channels, each in its field (`elementHoldsItsChannels`). -/
theorem setrgbStoresClampedChannels : Obligations.SetrgbStoresClampedChannels := by
  intro s index r g b wf
  refine ⟨rfl, fun mode => storePixel_of_not_initialized index _ s (not_initialized_of_mode s mode),
    fun mode => storePixel_of_out_of_range index _ s ((initialized_iff s).2 mode), fun mode hk => ?_⟩
  obtain ⟨s', run, read, rest⟩ := storePixel_stores index (channelsPixel r g b) s wf mode hk
  obtain ⟨red, green, blue, -⟩ := elementHoldsItsChannels (clamp8 r) (clamp8 g) (clamp8 b)
  refine ⟨s', channelsPixel r g b, run, read, ?_, ?_, ?_, rest⟩
  · rw [channelsPixel, red, clamp8_toNat]
  · rw [channelsPixel, green, clamp8_toNat]
  · rw [channelsPixel, blue, clamp8_toNat]

/-! ### CLEAR -/

/-- Settles O21: the empty list reads 0 at every index. -/
theorem clearZeroesEveryElement : Obligations.ClearZeroesEveryElement := by
  refine fun s => ⟨rfl, fun mode => execClear_of_not_initialized s (not_initialized_of_mode s mode), fun mode => ?_⟩
  have hi := (initialized_iff s).2 mode
  refine ⟨_, execClear_of_initialized s hi, fun k hk => ?_, respondOk_frame none [] s⟩
  rw [memRead_eq_some_iff, respondOk_mode, respondOk_N, respondOk_buf]
  exact ⟨mode_ne_uninit_of_initialized s hi, hk, rfl⟩

/-! ### GETPX -/

theorem execGetpx_of_not_initialized (k : Word) (s : State) (hi : s.initialized = false) :
    execGetpx k s = .next (raiseError .notInitialized s) := if_pos hi

theorem execGetpx_of_in_range (k : Word) (v : Pixel) (s : State) (hi : s.initialized = true)
    (read : memRead k s = some v) : execGetpx k s = .next (respondOk (some (v.setWidth 32)) s) := by
  obtain ⟨-, hk, -⟩ := (memRead_eq_some_iff k s v).1 read
  simp [execGetpx, hi, BitVec.not_le.2 hk, read]

/-- Settles O22: the answer carries the element that `memRead` gives. -/
theorem getpxReturnsElement : Obligations.GetpxReturnsElement := by
  intro s index
  refine ⟨rfl, fun mode => execGetpx_of_not_initialized index s (not_initialized_of_mode s mode),
    fun mode => execGetpx_of_out_of_range index s ((initialized_iff s).2 mode), fun mode hk => ?_⟩
  have hi := (initialized_iff s).2 mode
  have read : memRead index s = some (memLookup s.buf index.toNat) :=
    (memRead_eq_some_iff index s _).2 ⟨mode_ne_uninit_of_initialized s hi, hk, rfl⟩
  obtain ⟨answer, frame⟩ := respondOk_frame (some ((memLookup s.buf index.toNat).setWidth 32)) s.buf s
  exact ⟨_, _, execGetpx_of_in_range index _ s hi read, read, answer, respondOk_buf _ s, frame⟩

/-- Settles O23: GETPX reads the element that SETPX stored (`storePixel_stores`), and each adds its response. -/
theorem setThenGetReturnsMaskedColor : Obligations.SetThenGetReturnsMaskedColor := by
  intro s index color wf mode hk
  obtain ⟨s₁, set, read, -, ⟨-, first, -⟩, frame⟩ := storePixel_stores index (colorPixel color) s wf mode hk
  obtain ⟨-, sameMode, -, -, -, -, -, -, -, -, -, -, -, -, samePort, -, -⟩ := frame
  have get : exec (.getpx index) s₁ = .next (respondOk (some ((colorPixel color).setWidth 32)) s₁) :=
    execGetpx_of_in_range index _ s₁ ((initialized_iff s₁).2 (sameMode ▸ mode)) read
  rw [colorPixel_setWidth] at get
  refine ⟨s₁, _, set, get, ?_⟩
  rw [respondOk, respondOn_responses, if_pos samePort.symm, first, List.append_assoc, List.cons_append, List.nil_append]

end Sys2Proof.Machine
end

section
/-! PROOFS. INIT (40_pixel_buffer.md R91 to R93): its accept step, its three phase steps with each answer, and an
admitted INIT as a whole, done or failed. -/

namespace Sys2Proof.Machine

/-! ### The accept step (R91) -/

theorem execInit_of_busy (count : Word) (s : State) (busy : s.busy = true) :
    execInit count s = .next (raiseError .busy s) := if_pos busy

theorem execInit_of_idle (count : Word) (s : State) (mode : s.mode = .idle) :
    execInit count s = .next (raiseError .alreadyInitialized s) := by
  simp [execInit, State.busy, mode]

theorem execInit_of_too_many (count : Word) (s : State) (mode : s.mode = .uninit) (above : s.cfg.nMax < count) :
    execInit count s = .next (raiseError .countTooLarge s) := by
  simp [execInit, State.busy, mode, above]

theorem execInit_of_admitted (count : Word) (s : State) (mode : s.mode = .uninit) (legal : count ≤ s.cfg.nMax) :
    execInit count s =
      .next { s with pendCount := count, mode := .initializing, phase := .iSetup, owner := s.port } := by
  simp [execInit, State.busy, mode, BitVec.not_lt.2 legal]

/-- Settles O15, mode by mode. -/
theorem initAcceptStep : Obligations.InitAcceptStep := fun s count =>
  ⟨rfl, fun mode => execInit_of_busy count s ((busy_iff s).2 mode), execInit_of_idle count s,
    execInit_of_too_many count s, execInit_of_admitted count s⟩

/-! ### The phase steps (R92, R93) -/

/-- The phase of INIT with `n` of its requests taken. -/
def initPhase : Nat → Phase
  | 0 => .iSetup
  | 1 => .iCfgD
  | _ => .iCfgC

/-- The request outstanding in that phase. -/
def initRequest (c : Config) : Nat → Request
  | 0 => .setup
  | 1 => .cfg c.dataPin
  | _ => .cfg c.clockPin

/-- A turn that takes the outstanding request is the phase step. -/
theorem step_of_take (a : Answer) (s : State) (ts : List Turn) (h : s.turns = .take a :: ts) :
    step s = phaseStep a { s with turns := ts } :=
  step_of_turn s (.take a) ts h

/-- R92: on ok the first two requests lead to the next phase. -/
theorem phaseStep_initPhase_ok (n : Nat) (s : State) (before : n < 2) (hp : s.phase = initPhase n) :
    phaseStep .ok s = .next { request (initRequest s.cfg n) s with phase := initPhase (n + 1) } := by
  match n, before with
  | 0, _ => simp only [phaseStep, hp, initPhase]; rfl
  | 1, _ => simp only [phaseStep, hp, initPhase]; rfl

/-- R92: on ok the last request leads to the end of INIT. -/
theorem phaseStep_iCfgC_ok (s : State) (hp : s.phase = .iCfgC) :
    phaseStep .ok s = .next (initSucceed (request (.cfg s.cfg.clockPin) s)) := by
  simp only [phaseStep, hp]; rfl

/-- R93: on fail each request leads to `INIT_FAIL`. -/
theorem phaseStep_initPhase_fail (n : Nat) (s : State) (hp : s.phase = initPhase n) :
    phaseStep .fail s = .next (initFail (request (initRequest s.cfg n) s)) := by
  match n with
  | 0 => simp only [phaseStep, hp, initPhase]; rfl
  | 1 => simp only [phaseStep, hp, initPhase]; rfl
  | _ + 2 => simp only [phaseStep, hp, initPhase]; rfl

/-- R93: what `INIT_FAIL` leaves alone. -/
theorem initFail_frame (s : State) : (initFail s).buf = s.buf ∧
    SameButBufferAndResult { s with mode := .uninit, phase := .noPhase } (initFail s) := by
  simp [SameButBufferAndResult, initFail]

/-- R92: what the success of INIT leaves alone. -/
theorem initSucceed_frame (s : State) :
    SameButBufferAndResult { s with N := s.pendCount, mode := .idle, phase := .noPhase } (initSucceed s) := by
  simp [SameButBufferAndResult, initSucceed]

/-- R92: every element is created 0. -/
theorem memLookup_initSucceed (s : State) (k : Nat) : memLookup (initSucceed s).buf k = 0#24 := by
  simp [initSucceed]

/-- Settles O16: the phase step of each of the three phases, the failing one for all three at once
(`phaseStep_initPhase_fail`). -/
theorem initPhaseSteps : Obligations.InitPhaseSteps := by
  intro s ts
  refine ⟨fun hp ht => ?_, fun hp ht => ?_, fun hp ht => ?_, fun e sends ht => ?_⟩
  · rw [step_of_take .ok s ts ht]
    exact phaseStep_initPhase_ok 0 _ (by decide) hp
  · rw [step_of_take .ok s ts ht]
    exact phaseStep_initPhase_ok 1 _ (by decide) hp
  · rw [step_of_take .ok s ts ht]
    exact ⟨_, phaseStep_iCfgC_ok _ hp, responded_respondOn s.owner .ok none s _ rfl rfl, memLookup_initSucceed _,
      initSucceed_frame _⟩
  · obtain ⟨n, hp, rfl⟩ : ∃ n, s.phase = initPhase n ∧ e = initRequest s.cfg n := by
      rcases sends with sends | sends | sends
      · exact ⟨0, sends⟩
      · exact ⟨1, sends⟩
      · exact ⟨2, sends⟩
    obtain ⟨buffer, frame⟩ := initFail_frame (request (initRequest s.cfg n) { s with turns := ts })
    rw [step_of_take .fail s ts ht]
    exact ⟨_, phaseStep_initPhase_fail n _ hp, responded_respondOn s.owner .initFailed none s _ rfl rfl, buffer,
      frame⟩

/-! ### An admitted INIT as a whole -/

/-- The first `n` requests of INIT (R92). -/
def initRequests (c : Config) (n : Nat) : List Request :=
  [Request.setup, .cfg c.dataPin, .cfg c.clockPin].take n

theorem initRequests_succ (c : Config) (n : Nat) (h : n ≤ 2) :
    initRequests c (n + 1) = initRequests c n ++ [initRequest c n] := by
  match n, h with
  | 0, _ => rfl
  | 1, _ => rfl
  | 2, _ => rfl

/-- INIT admitted in `s`, with its first `n` requests taken and answered ok, and the turns `ts` to come. -/
def initUnderway (count : Word) (s : State) (n : Nat) (ts : List Turn) : State :=
  { s with pendCount := count, mode := .initializing, phase := initPhase n, owner := s.port,
           trace := s.trace ++ initRequests s.cfg n, turns := ts }

/-- R91: an admitted INIT has no request taken yet. -/
theorem execInit_eq_initUnderway (count : Word) (s : State) (mode : s.mode = .uninit) (legal : count ≤ s.cfg.nMax) :
    execInit count s = .next (initUnderway count s 0 s.turns) := by
  rw [execInit_of_admitted count s mode legal]
  simp [initUnderway, initRequests, initPhase]

/-- The next request joins the trace. -/
theorem request_initUnderway (count : Word) (s : State) (n : Nat) (ts : List Turn) (h : n ≤ 2) :
    request (initRequest s.cfg n) (initUnderway count s n ts) =
      { initUnderway count s n ts with trace := s.trace ++ initRequests s.cfg (n + 1) } := by
  simp [request, initUnderway, initRequests_succ s.cfg n h]

theorem step_initUnderway (count : Word) (s : State) (n : Nat) (ts : List Turn) (before : n < 2) :
    step (initUnderway count s n (.take .ok :: ts)) = .next (initUnderway count s (n + 1) ts) :=
  calc step (initUnderway count s n (.take .ok :: ts)) = phaseStep .ok (initUnderway count s n ts) :=
        step_of_take .ok _ ts rfl
    _ = .next { request (initRequest s.cfg n) (initUnderway count s n ts) with phase := initPhase (n + 1) } :=
        phaseStep_initPhase_ok n _ before rfl
    _ = .next (initUnderway count s (n + 1) ts) := by
        rw [request_initUnderway count s n ts (by omega)]; rfl

/-- INIT with `m` requests taken, after `n` more answers ok. -/
theorem steps_initUnderway (count : Word) (s : State) (n m : Nat) (ts : List Turn) (h : m + n ≤ 2) :
    steps n (initUnderway count s m (List.replicate n (.take .ok) ++ ts)) =
      .next (initUnderway count s (m + n) ts) := by
  induction n generalizing m with
  | zero => rfl
  | succ n ih =>
    rw [List.replicate_succ, List.cons_append,
      steps_succ_of_next n _ _ (step_initUnderway count s m _ (by omega)), ih (m + 1) (by omega),
      Nat.add_right_comm, Nat.add_assoc]

/-- An admitted INIT after `n` answers ok and one turn more. -/
theorem steps_initUnderway_succ (count : Word) (s s' : State) (n : Nat) (t : Turn) (ts : List Turn) (h : n ≤ 2)
    (last : step (initUnderway count s n (t :: ts)) = .next s') :
    steps (n + 1) (initUnderway count s 0 (List.replicate n (.take .ok) ++ t :: ts)) = .next s' := by
  have ok := steps_initUnderway count s n 0 (t :: ts) (by omega)
  rw [Nat.zero_add] at ok
  rw [steps_add n 1 _ _ ok, steps_succ_of_next 0 _ _ last, steps_zero]

/-- Settles O17: two answers ok lead to I_CFG_C, and the third to the success of INIT (`initSucceed_frame`). -/
theorem initRunCompletes : Obligations.InitRunCompletes := by
  intro s count ts mode legal ht
  have admitted := execInit_eq_initUnderway count s mode legal
  have last : step (initUnderway count s 2 (.take .ok :: ts)) =
      .next (initSucceed (request (initRequest s.cfg 2) (initUnderway count s 2 ts))) :=
    (step_of_take .ok _ ts rfl).trans (phaseStep_iCfgC_ok _ rfl)
  rw [request_initUnderway count s 2 ts (by decide)] at last
  rw [ht] at admitted
  obtain ⟨cfg, idle, pixels, phase, pend, pulse, pixel, bit, shreg, data, clock, cmd0, cmd1, trace, port, owner,
    turns⟩ := initSucceed_frame { initUnderway count s 2 ts with trace := s.trace ++ initRequests s.cfg 3 }
  exact ⟨_, _, admitted, steps_initUnderway_succ count s _ 2 _ ts (by decide) last, trace, idle, phase, pixels,
    memLookup_initSucceed _, responded_respondOn s.port .ok none s _ rfl rfl, data, clock, pulse, pixel, bit, shreg,
    cmd0, cmd1, cfg, port, owner, pend, turns⟩

/-! ### After a failed INIT (R93) -/

theorem memRead_of_uninit (k : Word) (s : State) (mode : s.mode = .uninit) : memRead k s = none := by
  simp [memRead, State.elementDefined, mode]

/-- R93: in UNINIT every command but INIT is NOT_INITIALIZED. -/
theorem exec_of_uninit (i : Instr) (s : State) (mode : s.mode = .uninit) (notInit : ∀ c, i ≠ .init c) :
    exec i s = .next (raiseError .notInitialized s) := by
  have hi := not_initialized_of_uninit s mode
  cases i with
  | init count => exact absurd rfl (notInit count)
  | setpx k color => exact storePixel_of_not_initialized k _ s hi
  | setrgb k r g b => exact storePixel_of_not_initialized k _ s hi
  | clear => exact execClear_of_not_initialized s hi
  | showGrid => simp [exec, execShowGrid, State.busy, mode]
  | getpx k => exact execGetpx_of_not_initialized k s hi

/-- Settles O18: `oks` answers ok lead to the phase of request `oks`, and the answer fail from there to `INIT_FAIL`
(`initFail_frame`). -/
theorem initFailureRunEndsUninit : Obligations.InitFailureRunEndsUninit := by
  intro s count oks ts mode legal few ht
  have admitted := execInit_eq_initUnderway count s mode legal
  have last : step (initUnderway count s oks (.take .fail :: ts)) =
      .next (initFail (request (initRequest s.cfg oks) (initUnderway count s oks ts))) :=
    (step_of_take .fail _ ts rfl).trans (phaseStep_initPhase_fail oks _ rfl)
  rw [request_initUnderway count s oks ts few] at last
  rw [ht] at admitted
  obtain ⟨buffer, cfg, uninit, pixels, phase, -, -, -, -, -, data, clock, -, -, trace, -, -, turns⟩ :=
    initFail_frame { initUnderway count s oks ts with trace := s.trace ++ initRequests s.cfg (oks + 1) }
  exact ⟨_, _, admitted, steps_initUnderway_succ count s _ oks _ ts few last, trace, uninit, phase,
    responded_respondOn s.port .initFailed none s _ rfl rfl, rfl, pixels, buffer,
    fun k => memRead_of_uninit k _ uninit, data, clock, turns, fun i => exec_of_uninit i _ uninit,
    fun c fits => ⟨_, execInit_of_admitted c _ uninit (cfg.symm ▸ fits), rfl, rfl, rfl⟩⟩

end Sys2Proof.Machine
end

section
/-! PROOFS. The requests of SHOW as a list (41_protocol_engine.md R120 to R128): the frame of an element, the length and
the position of each fragment, the bits the strip samples and the edges of the clock. -/

namespace Sys2Proof.Machine

/-! ### The frame of an element (R121) -/

theorem frame_toNat (v : Pixel) : (frame v).toNat = 2 ^ 24 + v.toNat := by
  have fits : v.toNat % 2 ^ 25 = v.toNat := Nat.mod_eq_of_lt (by omega)
  calc (frame v).toNat = v.toNat ||| 1 <<< 24 := by
        rw [frame, BitVec.toNat_or, BitVec.toNat_setWidth, fits, Nat.or_comm]
        rfl
    _ = 2 ^ 24 + v.toNat := by rw [or_shiftLeft_eq_add v.isLt]; omega

/-- Settles O14: the marker stands above the 24 bits of the element (`frame_toNat`). -/
theorem frameIsMarkerThenColour : Obligations.FrameIsMarkerThenColour := by
  intro v
  have sum := frame_toNat v
  refine ⟨rfl, frame_marker v, sum, ?_, ?_, ?_⟩ <;> apply BitVec.eq_of_toNat_eq <;>
    rw [BitVec.extractLsb'_toNat, BitVec.extractLsb'_toNat, Nat.shiftRight_eq_div_pow, Nat.shiftRight_eq_div_pow,
      sum] <;> omega

/-! ### The fragments and their lengths (R120, R122, R126) -/

@[simp] theorem length_pulses (c : Config) (k : Nat) : (pulses c k).length = 2 * k := by
  induction k with
  | zero => rfl
  | succ k ih => simp only [pulses, pulse, List.length_append, List.length_cons, List.length_nil, ih]; omega

@[simp] theorem length_bitsTrace (c : Config) (f : FrameWord) (n : Nat) : (bitsTrace c f n).length = 3 * n := by
  induction n with
  | zero => rfl
  | succ n ih => simp only [bitsTrace, pulse, List.length_cons, List.length_append, List.length_nil, ih]; omega

@[simp] theorem length_frameTrace (c : Config) (v : Pixel) : (frameTrace c v).length = 75 :=
  length_bitsTrace c (frame v) 25

@[simp] theorem length_framesTrace (c : Config) (vs : List Pixel) : (framesTrace c vs).length = 75 * vs.length := by
  induction vs with
  | nil => rfl
  | cons v vs ih => simp only [framesTrace, List.length_append, length_frameTrace, ih, List.length_cons]; omega

/-- R123, R126: what SHOW sends after its frames. -/
def endTrace (c : Config) : List Request := blankTrace c ++ [.sleep c.settleMs]

/-- R123, R124: `T_show` with its two data-low writes seen. -/
theorem showTrace_eq (c : Config) (vs : List Pixel) :
    showTrace c vs =
      .write c.dataPin false :: (pulses c c.preamblePulses.toNat ++ (framesTrace c vs ++ endTrace c)) := by
  simp [showTrace, preambleTrace, endTrace]

theorem length_showTrace (c : Config) (vs : List Pixel) : (showTrace c vs).length = showLength c vs.length := by
  simp only [showTrace_eq, endTrace, blankTrace, showLength, List.length_cons, List.length_append, List.length_nil,
    length_pulses, length_framesTrace]
  omega

/-! ### Where each request stands (R127) -/

/-- A request of a part stands behind what comes before the part. -/
theorem getElem?_of_parts {α : Type} {whole before part after : List α} {i j : Nat} {e : α} (h : part[j]? = some e)
    (parts : whole = before ++ (part ++ after)) (index : i = before.length + j) : whole[i]? = some e := by
  obtain ⟨inside, -⟩ := List.getElem?_eq_some_iff.1 h
  rw [parts, index, List.getElem?_append_right (Nat.le_add_right _ _), Nat.add_sub_cancel_left,
    List.getElem?_append_left inside, h]

theorem getElem?_pulses (c : Config) (k j : Nat) (h : j < k) :
    (pulses c k)[2 * j]? = some (.write c.clockPin true) ∧
      (pulses c k)[2 * j + 1]? = some (.write c.clockPin false) := by
  induction k generalizing j with
  | zero => omega
  | succ k ih =>
    cases j with
    | zero => exact ⟨rfl, rfl⟩
    | succ j => exact ih j (by omega)

theorem getElem?_bitsTrace (c : Config) (f : FrameWord) (n i : Nat) (h : i ≤ n) :
    (bitsTrace c f (n + 1))[3 * (n - i)]? = some (.write c.dataPin (f.getLsbD i)) ∧
      (bitsTrace c f (n + 1))[3 * (n - i) + 1]? = some (.write c.clockPin true) ∧
      (bitsTrace c f (n + 1))[3 * (n - i) + 2]? = some (.write c.clockPin false) := by
  induction n with
  | zero =>
    obtain rfl : i = 0 := by omega
    exact ⟨rfl, rfl, rfl⟩
  | succ n ih =>
    rcases Nat.eq_or_lt_of_le h with rfl | below
    · rw [Nat.sub_self]
      exact ⟨rfl, rfl, rfl⟩
    · rw [show 3 * (n + 1 - i) = 3 * (n - i) + 3 by omega]
      exact ih (by omega)

theorem framesTrace_append (c : Config) (us vs : List Pixel) :
    framesTrace c (us ++ vs) = framesTrace c us ++ framesTrace c vs := by
  induction us with
  | nil => rfl
  | cons u us ih => simp only [List.cons_append, framesTrace, ih, List.append_assoc]

/-- R126: frame `k` stands behind the frames of the `k` elements before it. -/
theorem getElem?_framesTrace {c : Config} {vs : List Pixel} {k j : Nat} {v : Pixel} {e : Request} (hv : vs[k]? = some v)
    (h : (frameTrace c v)[j]? = some e) : (framesTrace c vs)[75 * k + j]? = some e := by
  obtain ⟨inside, at_k⟩ := List.getElem?_eq_some_iff.1 hv
  have split : vs = vs.take k ++ v :: vs.drop (k + 1) := by
    rw [← at_k, ← List.drop_eq_getElem_cons inside, List.take_append_drop]
  refine getElem?_of_parts (before := framesTrace c (vs.take k)) (after := framesTrace c (vs.drop (k + 1))) h ?_ ?_
  · rw [← framesTrace, ← framesTrace_append, ← split]
  · rw [length_framesTrace, List.length_take_of_le (by omega)]

/-- A request of the preamble's pulses in `T_show`. -/
theorem getElem?_showTrace_of_pulses {c : Config} {vs : List Pixel} {i j : Nat} {e : Request}
    (h : (pulses c c.preamblePulses.toNat)[j]? = some e) (index : i = 1 + j) : (showTrace c vs)[i]? = some e :=
  getElem?_of_parts (before := [.write c.dataPin false]) h (showTrace_eq c vs) index

/-- A request of the frames in `T_show`. -/
theorem getElem?_showTrace_of_frames {c : Config} {vs : List Pixel} {i j : Nat} {e : Request}
    (h : (framesTrace c vs)[j]? = some e) (index : i = 1 + 2 * c.preamblePulses.toNat + j) :
    (showTrace c vs)[i]? = some e :=
  getElem?_of_parts (before := preambleTrace c) h (showTrace_eq c vs) (by simp [preambleTrace]; omega)

/-- A request after the frames in `T_show`. -/
theorem getElem?_showTrace_of_end {c : Config} {vs : List Pixel} {i j : Nat} {e : Request}
    (h : (endTrace c)[j]? = some e) (index : i = 1 + 2 * c.preamblePulses.toNat + 75 * vs.length + j) :
    (showTrace c vs)[i]? = some e :=
  getElem?_of_parts (before := preambleTrace c ++ framesTrace c vs) (after := []) h
    (by simp [showTrace_eq, preambleTrace]) (by simp [preambleTrace]; omega)

/-- A request of the blank's pulses after the frames. -/
theorem getElem?_endTrace_of_pulses {c : Config} {i j : Nat} {e : Request}
    (h : (pulses c c.blankPulses.toNat)[j]? = some e) (index : i = 1 + j) : (endTrace c)[i]? = some e :=
  getElem?_of_parts (before := [.write c.dataPin false]) h rfl index

/-- Settles O40: each fragment stands behind the ones before it (`getElem?_of_parts`). -/
theorem showTracePositions : Obligations.ShowTracePositions := by
  intro c vs
  refine ⟨length_showTrace c vs, rfl, fun j hj => ?_, fun k v i hv hi => ?_,
    getElem?_showTrace_of_end (j := 0) rfl rfl, fun j hj => ?_, ?_⟩
  · obtain ⟨high, low⟩ := getElem?_pulses c _ j hj
    exact ⟨getElem?_showTrace_of_pulses high rfl, getElem?_showTrace_of_pulses low (by omega)⟩
  · obtain ⟨data, high, low⟩ := getElem?_bitsTrace c (frame v) 24 i hi
    exact ⟨getElem?_showTrace_of_frames (getElem?_framesTrace hv data) (Nat.add_assoc _ _ _),
      getElem?_showTrace_of_frames (getElem?_framesTrace hv high) (by omega),
      getElem?_showTrace_of_frames (getElem?_framesTrace hv low) (by omega)⟩
  · obtain ⟨high, low⟩ := getElem?_pulses c _ j hj
    exact ⟨getElem?_showTrace_of_end (getElem?_endTrace_of_pulses high rfl) (by omega),
      getElem?_showTrace_of_end (getElem?_endTrace_of_pulses low rfl) (by omega)⟩
  · have pause : (endTrace c)[1 + 2 * c.blankPulses.toNat]? = some (.sleep c.settleMs) :=
      getElem?_of_parts (before := blankTrace c) (part := [.sleep c.settleMs]) (j := 0) (after := []) rfl
        rfl (by simp [blankTrace]; omega)
    exact getElem?_showTrace_of_end pause (by omega)

/-! ### The bits the strip samples (R37, R128) -/

theorem sampledBits_append (c : Config) (d : Level) (t u : List Request) :
    sampledBits c d (t ++ u) = sampledBits c d t ++ sampledBits c (lastLevel c.dataPin d t) u := by
  induction t generalizing d with
  | nil => rfl
  | cons e t ih =>
    cases e with
    | write p b => simp only [List.cons_append, sampledBits, lastLevel]; split_ifs <;> simp [ih]
    | setup => exact ih d
    | cfg p => exact ih d
    | sleep ms => exact ih d

theorem sampledBits_data_append (c : Config) (d : Level) (b : Bool) (t : List Request) :
    sampledBits c d (.write c.dataPin b :: t) = sampledBits c (levelOf b) t :=
  if_pos rfl

section
variable {c : Config} (wf : c.wf = true)
include wf

theorem clockPin_ne_dataPin : c.clockPin ≠ c.dataPin := by
  have other : c.dataPin ≠ c.clockPin := by simpa [Config.wf] using wf
  exact other.symm

theorem sampledBits_pulse_append (d : Level) (t : List Request) :
    sampledBits c d (pulse c ++ t) = d :: sampledBits c d t := by
  have other := clockPin_ne_dataPin wf
  simp [pulse, sampledBits, other]

theorem sampledBits_pulses (d : Level) (k : Nat) : sampledBits c d (pulses c k) = List.replicate k d := by
  induction k with
  | zero => rfl
  | succ k ih => rw [pulses, sampledBits_pulse_append wf, ih, List.replicate_succ]

/-- The bits below `n`, the highest first, as levels. -/
theorem sampledBits_bitsTrace (d : Level) (f : FrameWord) (n : Nat) :
    sampledBits c d (bitsTrace c f n) = (List.range n).map fun i => levelOf (f.getLsbD (n - 1 - i)) := by
  induction n generalizing d with
  | zero => rfl
  | succ n ih =>
    rw [bitsTrace, sampledBits_data_append, sampledBits_pulse_append wf, ih, List.range_succ_eq_map, List.map_cons,
      List.map_map]
    refine congrArg _ (List.map_congr_left fun i _ => ?_)
    rw [Function.comp, show n + 1 - 1 - (i + 1) = n - 1 - i by omega]

theorem sampledBits_framesTrace (d : Level) (vs : List Pixel) :
    sampledBits c d (framesTrace c vs) = vs.flatMap frameLevels := by
  induction vs generalizing d with
  | nil => rfl
  | cons v vs ih =>
    rw [framesTrace, sampledBits_append, ih, frameTrace, sampledBits_bitsTrace wf, List.flatMap_cons]
    rfl

end

theorem length_flatMap_frameLevels (vs : List Pixel) : (vs.flatMap frameLevels).length = 25 * vs.length := by
  induction vs with
  | nil => rfl
  | cons v vs ih =>
    rw [List.flatMap_cons, List.length_append, ih, frameLevels, List.length_map, List.length_range, List.length_cons,
      Config.frameBits, Config.markerBits, Config.colorBits]
    omega

/-- Settles O41: the fragments of `T_show` one after another; each data write comes before the pulses that sample it. -/
theorem showSampledBits : Obligations.ShowSampledBits := by
  intro c d vs wf
  have stream : sampledBits c d (showTrace c vs) =
      List.replicate c.preamblePulses.toNat .low ++ vs.flatMap frameLevels ++
        List.replicate c.blankPulses.toNat .low := by
    simp only [showTrace, preambleTrace, blankTrace, sampledBits_append, sampledBits_data_append,
      sampledBits_pulses wf, sampledBits_framesTrace wf]
    exact List.append_nil _
  refine ⟨stream, ?_⟩
  rw [stream, List.length_append, List.length_append, List.length_replicate, List.length_replicate,
    length_flatMap_frameLevels]

/-! ### The edges of the clock (R120, R197) -/

/-- The edges of `n` pulses from a level of the clock: every one after the first is from low. -/
def pulseEdges (l : Level) : Nat → List Edge
  | 0 => []
  | n + 1 => edgeFrom l :: List.replicate n .rising

/-- A segment whose high writes of the clock are those of `n` pulses, from whatever level (R120). -/
def MakesPulses (c : Config) (t : List Request) (n : Nat) : Prop :=
  ∀ l, clockEdges c l t = pulseEdges l n ∧ lastLevel c.clockPin l t = if n = 0 then l else .low

theorem clockEdges_append (c : Config) (l : Level) (t u : List Request) :
    clockEdges c l (t ++ u) = clockEdges c l t ++ clockEdges c (lastLevel c.clockPin l t) u := by
  induction t generalizing l with
  | nil => rfl
  | cons e t ih =>
    cases e with
    | write p b =>
      simp only [List.cons_append, clockEdges, lastLevel]
      split_ifs with clock high
      · simp [ih, high, levelOf]
      · simp [ih, high, levelOf]
      · exact ih l
    | setup => exact ih l
    | cfg p => exact ih l
    | sleep ms => exact ih l

theorem MakesPulses.append {c : Config} {t u : List Request} {m n : Nat} (ht : MakesPulses c t m)
    (hu : MakesPulses c u n) : MakesPulses c (t ++ u) (m + n) := by
  intro l
  obtain ⟨edges, level⟩ := ht l
  rw [clockEdges_append, lastLevel_append, edges, level, (hu _).1, (hu _).2]
  cases m with
  | zero => simp [pulseEdges]
  | succ m =>
    cases n with
    | zero => simp [pulseEdges]
    | succ n =>
      have joined : List.replicate m Edge.rising ++ .rising :: List.replicate n .rising =
          List.replicate (m + (n + 1)) .rising := by
        rw [← List.replicate_succ, List.replicate_append_replicate]
      rw [show m + 1 + (n + 1) = m + (n + 1) + 1 by omega]
      exact ⟨congrArg (edgeFrom l :: ·) joined, rfl⟩

theorem MakesPulses.nil (c : Config) : MakesPulses c [] 0 := fun _ => ⟨rfl, rfl⟩

theorem makesPulses_sleep (c : Config) (ms : Nat) : MakesPulses c [.sleep ms] 0 := fun _ => ⟨rfl, rfl⟩

theorem makesPulses_pulse (c : Config) : MakesPulses c (pulse c) 1 := fun l => by
  simp [pulse, clockEdges, lastLevel, pulseEdges, levelOf]

theorem makesPulses_pulses (c : Config) (k : Nat) : MakesPulses c (pulses c k) k := by
  induction k with
  | zero => exact .nil c
  | succ k ih =>
    rw [pulses, Nat.add_comm]
    exact (makesPulses_pulse c).append ih

section
variable {c : Config} (wf : c.wf = true)
include wf

theorem MakesPulses.data_cons {t : List Request} {n : Nat} (b : Bool) (ht : MakesPulses c t n) :
    MakesPulses c (.write c.dataPin b :: t) n := fun l => by
  have other := (clockPin_ne_dataPin wf).symm
  simpa [clockEdges, lastLevel, other] using ht l

theorem makesPulses_bitsTrace (f : FrameWord) (n : Nat) : MakesPulses c (bitsTrace c f n) n := by
  induction n with
  | zero => exact .nil c
  | succ n ih =>
    rw [bitsTrace, Nat.add_comm]
    exact ((makesPulses_pulse c).append ih).data_cons wf _

theorem makesPulses_framesTrace (vs : List Pixel) : MakesPulses c (framesTrace c vs) (25 * vs.length) := by
  induction vs with
  | nil => exact .nil c
  | cons v vs ih =>
    rw [List.length_cons, Nat.mul_succ, Nat.add_comm]
    exact (makesPulses_bitsTrace wf (frame v) 25).append ih

theorem makesPulses_showTrace (vs : List Pixel) :
    MakesPulses c (showTrace c vs) (c.preamblePulses.toNat + 25 * vs.length + c.blankPulses.toNat) := by
  have preamble := (makesPulses_pulses c c.preamblePulses.toNat).data_cons wf false
  have blank := (makesPulses_pulses c c.blankPulses.toNat).data_cons wf false
  exact ((preamble.append (makesPulses_framesTrace wf vs)).append blank).append (makesPulses_sleep c c.settleMs)

end

/-- Settles O43: `T_show` makes `P + 25N + B` pulses, and only the first starts from the level before it. -/
theorem onlyFirstPulseUncertain : Obligations.OnlyFirstPulseUncertain := by
  intro c vs wf
  have edges (l : Level) := (makesPulses_showTrace wf vs l).1
  rw [edges, edges]
  generalize c.preamblePulses.toNat + 25 * vs.length + c.blankPulses.toNat = n
  cases n with
  | zero => exact ⟨rfl, fun h => absurd h (Nat.lt_irrefl 0)⟩
  | succ n => exact ⟨rfl, fun _ => rfl⟩

end Sys2Proof.Machine
end

section
/-! PROOFS. SHOW step by step (41_protocol_engine.md R125, R129 to R138): its accept step and each phase step as the
state it answers. -/

namespace Sys2Proof.Machine

/-! ### The accept step (R125) -/

theorem execShowGrid_of_busy (s : State) (busy : s.busy = true) : execShowGrid s = .next (raiseError .busy s) :=
  if_pos busy

theorem execShowGrid_of_uninit (s : State) (mode : s.mode = .uninit) :
    execShowGrid s = .next (raiseError .notInitialized s) := by
  simp [execShowGrid, State.busy, mode]

theorem execShowGrid_of_idle (s : State) (mode : s.mode = .idle) :
    execShowGrid s = .next { s with mode := .tx, phase := .tDlow, owner := s.port } := by
  simp [execShowGrid, State.busy, mode]

/-- Settles O32, mode by mode. -/
theorem showAcceptStep : Obligations.ShowAcceptStep := fun s =>
  ⟨rfl, fun mode => execShowGrid_of_busy s ((busy_iff s).2 mode), execShowGrid_of_uninit s, execShowGrid_of_idle s⟩

/-! ### The phase steps (R129 to R138) -/

theorem afterPreamble_of_pixels (s : State) (pixels : 0#32 < s.N) :
    afterPreamble s = { s with pixIdx := 0#32, bitIdx := 24#5, phase := .tBitD } := if_pos pixels

theorem afterPreamble_of_no_pixels (s : State) (none : s.N = 0#32) :
    afterPreamble s = { s with phase := .tBlkDlow } := if_neg (by simp [none])

section
variable {s : State} {a : Answer} {ts : List Turn} (ht : s.turns = .take a :: ts)
include ht

theorem step_of_tDlow (hp : s.phase = .tDlow) : step s = .next (phaseTDlow { s with turns := ts }) := by
  simp only [step_of_take a s ts ht, phaseStep, hp]

theorem step_of_tPreHi (hp : s.phase = .tPreHi) : step s = .next (phaseTPreHi { s with turns := ts }) := by
  simp only [step_of_take a s ts ht, phaseStep, hp]

theorem step_of_tPreLo (hp : s.phase = .tPreLo) : step s = .next (phaseTPreLo { s with turns := ts }) := by
  simp only [step_of_take a s ts ht, phaseStep, hp]

theorem step_of_tBitD (hp : s.phase = .tBitD) : step s = phaseTBitD { s with turns := ts } := by
  simp only [step_of_take a s ts ht, phaseStep, hp]

theorem step_of_tBitHi (hp : s.phase = .tBitHi) : step s = .next (phaseTBitHi { s with turns := ts }) := by
  simp only [step_of_take a s ts ht, phaseStep, hp]

theorem step_of_tBitLo (hp : s.phase = .tBitLo) : step s = .next (phaseTBitLo { s with turns := ts }) := by
  simp only [step_of_take a s ts ht, phaseStep, hp]

theorem step_of_tBlkDlow (hp : s.phase = .tBlkDlow) : step s = .next (phaseTBlkDlow { s with turns := ts }) := by
  simp only [step_of_take a s ts ht, phaseStep, hp]

theorem step_of_tBlkHi (hp : s.phase = .tBlkHi) : step s = .next (phaseTBlkHi { s with turns := ts }) := by
  simp only [step_of_take a s ts ht, phaseStep, hp]

theorem step_of_tBlkLo (hp : s.phase = .tBlkLo) : step s = .next (phaseTBlkLo { s with turns := ts }) := by
  simp only [step_of_take a s ts ht, phaseStep, hp]

theorem step_of_tSettle (hp : s.phase = .tSettle) : step s = .next (phaseTSettle { s with turns := ts }) := by
  simp only [step_of_take a s ts ht, phaseStep, hp]

end

/-- Settles O33: the branches of T_DLOW and T_PRE_LO, each with those of `AFTER_PRE`. -/
theorem preamblePhaseSteps : Obligations.PreamblePhaseSteps := by
  intro s a ts ht
  refine ⟨fun hp pulses => ?_, fun hp none pixels => ?_, fun hp none noPixels => ?_, fun hp => step_of_tPreHi ht hp,
    fun hp more => ?_, fun hp last pixels => ?_, fun hp last noPixels => ?_⟩
  · rw [step_of_tDlow ht hp]
    exact congrArg _ (if_pos pulses)
  · rw [step_of_tDlow ht hp]
    exact congrArg _ ((if_neg (by simp [none])).trans (afterPreamble_of_pixels _ pixels))
  · rw [step_of_tDlow ht hp]
    exact congrArg _ ((if_neg (by simp [none])).trans (afterPreamble_of_no_pixels _ noPixels))
  · rw [step_of_tPreLo ht hp]
    exact congrArg _ (if_neg more)
  · rw [step_of_tPreLo ht hp]
    exact congrArg _ ((if_pos last).trans (afterPreamble_of_pixels _ pixels))
  · rw [step_of_tPreLo ht hp]
    exact congrArg _ ((if_pos last).trans (afterPreamble_of_no_pixels _ noPixels))

/-- Settles O34: the first bit of a frame is its marker (`frame_marker`). -/
theorem frameBitPhaseSteps : Obligations.FrameBitPhaseSteps := by
  intro s a ts ht
  refine ⟨fun hp first mode pixel => ?_, fun hp later => ?_, fun hp => step_of_tBitHi ht hp, fun hp bits => ?_,
    fun hp last pixels => ?_, fun hp last noPixels => ?_⟩
  · rw [step_of_tBitD ht hp, phaseTBitD_of_first { s with turns := ts } first (by simp [mode]) pixel]
    simp only [sendBit, first]
    rw [show (24#5).toNat = 24 from rfl, frame_marker]
    rfl
  · rw [step_of_tBitD ht hp, phaseTBitD_of_later { s with turns := ts } later]
    rfl
  · rw [step_of_tBitLo ht hp]
    exact congrArg _ (if_pos bits)
  · rw [step_of_tBitLo ht hp]
    exact congrArg _ ((if_neg (by simp [last])).trans (if_pos pixels))
  · rw [step_of_tBitLo ht hp]
    exact congrArg _ ((if_neg (by simp [last])).trans (if_neg (BitVec.not_lt.2 noPixels)))

/-- Settles O35: the branches of T_BLK_DLOW and T_BLK_LO; the pause answers as any response does
(`responded_respondOn`). -/
theorem blankAndSettlePhaseSteps : Obligations.BlankAndSettlePhaseSteps := by
  intro s a ts ht
  refine ⟨fun hp pulses => ?_, fun hp none => ?_, fun hp => step_of_tBlkHi ht hp, fun hp last => ?_,
    fun hp more => ?_, fun hp => ⟨_, step_of_tSettle ht hp, responded_respondOn s.owner .ok none s _ rfl rfl, ?_, ?_⟩⟩
  · rw [step_of_tBlkDlow ht hp]
    exact congrArg _ (if_pos pulses)
  · rw [step_of_tBlkDlow ht hp]
    exact congrArg _ (if_neg (by simp [none]))
  · rw [step_of_tBlkLo ht hp]
    exact congrArg _ (if_pos last)
  · rw [step_of_tBlkLo ht hp]
    exact congrArg _ (if_neg more)
  · simp [phaseTSettle]
  · simp [SameButBufferAndResult, phaseTSettle]

end Sys2Proof.Machine
end

section
/-! PROOFS. A SHOW in progress (41_protocol_engine.md R126, R129 to R140): what it has still to load and to send at each
point, and that a host's move leaves that alone and a taking does the next of it. -/

namespace Sys2Proof.Machine

/-! ### What a SHOW in progress still has to do -/

/-- The indices from `k` on. -/
def indicesFrom (s : State) (k : Nat) : List Nat := List.range' k (s.N.toNat - k)

/-- The indices still to be loaded (R132), in order. -/
def restIndices (s : State) : List Nat :=
  match s.phase with
  | .tDlow | .tPreHi | .tPreLo => indicesFrom s 0
  | .tBitD => indicesFrom s (if s.bitIdx = 24#5 then s.pixIdx.toNat else s.pixIdx.toNat + 1)
  | .tBitHi | .tBitLo => indicesFrom s (s.pixIdx.toNat + 1)
  | _ => []

/-- The frames of `vs` and what comes after the last frame. -/
def framesToEnd (c : Config) (vs : List Pixel) : List Request := framesTrace c vs ++ endTrace c

/-- The requests still to be sent (R129 to R138), where the elements still to be loaded will hold `vs`. -/
def restTrace (s : State) (vs : List Pixel) : List Request :=
  match s.phase with
  | .tDlow => showTrace s.cfg vs
  | .tPreHi => pulses s.cfg (s.cfg.preamblePulses.toNat - s.pulseCnt.toNat) ++ framesToEnd s.cfg vs
  | .tPreLo =>
    .write s.cfg.clockPin false ::
      (pulses s.cfg (s.cfg.preamblePulses.toNat - (s.pulseCnt.toNat + 1)) ++ framesToEnd s.cfg vs)
  | .tBitD => (if s.bitIdx = 24#5 then [] else bitsTrace s.cfg s.shreg (s.bitIdx.toNat + 1)) ++ framesToEnd s.cfg vs
  | .tBitHi => pulse s.cfg ++ (bitsTrace s.cfg s.shreg s.bitIdx.toNat ++ framesToEnd s.cfg vs)
  | .tBitLo => .write s.cfg.clockPin false :: (bitsTrace s.cfg s.shreg s.bitIdx.toNat ++ framesToEnd s.cfg vs)
  | .tBlkDlow => endTrace s.cfg
  | .tBlkHi => pulses s.cfg (s.cfg.blankPulses.toNat - s.pulseCnt.toNat) ++ [.sleep s.cfg.settleMs]
  | .tBlkLo =>
    .write s.cfg.clockPin false ::
      (pulses s.cfg (s.cfg.blankPulses.toNat - (s.pulseCnt.toNat + 1)) ++ [.sleep s.cfg.settleMs])
  | .tSettle => [.sleep s.cfg.settleMs]
  | _ => []

/-- The data level and the clock level SHOW will end with (R140); the clock is low after any pulse still to come or to
finish. -/
def settledLevels (s : State) : Level × Level :=
  match s.phase with
  | .tDlow =>
    (.low, if 0 < s.cfg.preamblePulses.toNat + 25 * s.N.toNat + s.cfg.blankPulses.toNat then .low else s.clkLvl)
  | .tBlkDlow => (.low, if 0 < s.cfg.blankPulses.toNat then .low else s.clkLvl)
  | .tBlkHi | .tBlkLo => (s.dataLvl, .low)
  | .tSettle => (s.dataLvl, s.clkLvl)
  | _ => (.low, .low)

/-- A SHOW in progress, with its counters in their runs (R27 to R30). -/
def Underway (s : State) : Prop := s.mode = .tx ∧ phaseFits s.phase .tx = true ∧ countersFit s = true

/-- Nothing that is a host's to change differs. -/
structure Untouched (s u : State) : Prop where
  buf : u.buf = s.buf
  pendCount : u.pendCount = s.pendCount
  cmd0 : u.cmd0 = s.cmd0
  cmd1 : u.cmd1 = s.cmd1
  rsp0 : u.rsp0 = s.rsp0
  rsp1 : u.rsp1 = s.rsp1
  port : u.port = s.port

/-- A SHOW in progress went on from `s` to `u` by the turns `played`, and loaded the elements `ls`. -/
structure Refreshes (played : List Turn) (s : State) (ls : List (Word × Pixel)) (u : State) : Prop where
  underway : Underway u
  cfg : u.cfg = s.cfg
  pixels : u.N = s.N
  owner : u.owner = s.owner
  levels : settledLevels u = settledLevels s
  indices : restIndices s = ls.map (fun l => l.1.toNat) ++ restIndices u
  requests : ∀ vs, vs.length = (restIndices u).length →
    s.trace ++ restTrace s (ls.map Prod.snd ++ vs) = u.trace ++ restTrace u vs
  counted : u.trace.length = s.trace.length + played.countP Turn.isTake
  untouched : (∀ t ∈ played, t.isTake = true) → Untouched s u
  values : (∀ t ∈ played, t.isTake = true) → ∀ l ∈ ls, l.2 = memLookup s.buf l.1.toNat

theorem Refreshes.refl (s : State) (underway : Underway s) : Refreshes [] s [] s where
  underway := underway
  cfg := rfl
  pixels := rfl
  owner := rfl
  levels := rfl
  indices := rfl
  requests _ _ := rfl
  counted := rfl
  untouched _ := ⟨rfl, rfl, rfl, rfl, rfl, rfl, rfl⟩
  values _ _ h := absurd h List.not_mem_nil

theorem Refreshes.trans {p q : List Turn} {ls ms : List (Word × Pixel)} {s t u : State} (h : Refreshes p s ls t)
    (k : Refreshes q t ms u) : Refreshes (p ++ q) s (ls ++ ms) u where
  underway := k.underway
  cfg := k.cfg.trans h.cfg
  pixels := k.pixels.trans h.pixels
  owner := k.owner.trans h.owner
  levels := k.levels.trans h.levels
  indices := by rw [h.indices, k.indices, List.map_append, List.append_assoc]
  requests vs len := by
    rw [List.map_append, List.append_assoc, h.requests _ (by simp [k.indices, len]), k.requests vs len]
  counted := by rw [k.counted, h.counted, List.countP_append, Nat.add_assoc]
  untouched takes := by
    have first := h.untouched fun x hx => takes x (List.mem_append_left q hx)
    have second := k.untouched fun x hx => takes x (List.mem_append_right p hx)
    exact ⟨second.buf.trans first.buf, second.pendCount.trans first.pendCount, second.cmd0.trans first.cmd0,
      second.cmd1.trans first.cmd1, second.rsp0.trans first.rsp0, second.rsp1.trans first.rsp1,
      second.port.trans first.port⟩
  values takes l hl := by
    have allP : ∀ x ∈ p, x.isTake = true := fun x hx => takes x (List.mem_append_left q hx)
    rcases List.mem_append.1 hl with hl | hl
    · exact h.values allP l hl
    · rw [k.values (fun x hx => takes x (List.mem_append_right p hx)) l hl, (h.untouched allP).buf]

/-! ### A turn of a host (R61) -/

theorem loadsElement_of_hostSide (s : State) (t : Turn) (ts : List Turn) (ht : s.turns = t :: ts)
    (hostSide : t.isHostSide = true) : loadsElement s = none := by
  cases t <;> simp_all [loadsElement, Turn.isHostSide]

/-- A host's move leaves alone what is still to do (`hostMovesLeaveTheRefreshAlone`). -/
theorem refreshes_of_hostSide (s : State) (t : Turn) (ts : List Turn) (ht : s.turns = t :: ts) (underway : Underway s)
    (hostSide : t.isHostSide = true) (present : t.present s.cfg = true) :
    ∃ s', step s = .next s' ∧ s'.turns = ts ∧ Refreshes [t] s (loadsElement s).toList s' := by
  obtain ⟨mode, fits, counters⟩ := underway
  obtain ⟨s', run, turns, mode', phase, pixels, pulse, pixel, bit, shreg, data, clock, trace, owner⟩ :=
    hostMovesLeaveTheRefreshAlone s t ts mode hostSide present ht
  have cfg := stepKeepsParameters s s' run
  have notTake : t.isTake = false := by cases t <;> simp_all [Turn.isHostSide, Turn.isTake]
  rw [loadsElement_of_hostSide s t ts ht hostSide]
  have sameIndices : restIndices s' = restIndices s := by
    simp only [restIndices, indicesFrom, phase, pixels, pixel, bit]
  have sameRest : ∀ vs, restTrace s' vs = restTrace s vs := fun vs => by
    simp only [restTrace, phase, cfg, pulse, bit, shreg]
  exact ⟨s', run, turns, {
    underway := ⟨mode'.trans mode, by rw [phase, fits], by
      simpa only [countersFit, phase, cfg, pulse, pixel, bit, shreg, pixels] using counters⟩
    cfg := cfg
    pixels := pixels
    owner := owner
    levels := by simp only [settledLevels, phase, cfg, pixels, data, clock]
    indices := sameIndices.symm
    requests := fun vs _ => by rw [trace, sameRest]; rfl
    counted := by simp [trace, notTake]
    untouched := fun takes => absurd (takes t List.mem_cons_self) (by simp [notTake])
    values := fun takes => absurd (takes t List.mem_cons_self) (by simp [notTake]) }⟩

/-! ### A taking (R129 to R137) -/

theorem pulses_sub (c : Config) (p k : Nat) (h : k < p) :
    pulses c (p - k) = .write c.clockPin true :: .write c.clockPin false :: pulses c (p - (k + 1)) := by
  rw [show p - k = p - (k + 1) + 1 by omega]
  rfl

theorem indicesFrom_of_lt (s : State) (k : Nat) (h : k < s.N.toNat) :
    indicesFrom s k = k :: indicesFrom s (k + 1) := by
  rw [indicesFrom, show s.N.toNat - k = s.N.toNat - (k + 1) + 1 by omega]
  rfl

theorem indicesFrom_of_le (s : State) (k : Nat) (h : s.N.toNat ≤ k) : indicesFrom s k = [] := by
  rw [indicesFrom, Nat.sub_eq_zero_of_le h]
  rfl

/-- A counter below a bound does not wrap. -/
theorem toNat_succ_of_lt {w : Nat} (x y : BitVec w) (h : x < y) : (x + 1#w).toNat = x.toNat + 1 := by
  have below : x.toNat < y.toNat := h
  have := y.isLt
  rw [BitVec.toNat_add, BitVec.toNat_ofNat, Nat.add_mod_mod, Nat.mod_eq_of_lt (by omega)]

theorem loadsElement_of_phase_ne (s : State) (hp : s.phase ≠ .tBitD) : loadsElement s = none := by
  unfold loadsElement
  split
  · exact if_neg fun h => hp h.1
  · rfl

theorem loadsElement_value (s : State) (l : Word × Pixel) (h : loadsElement s = some l) :
    l.2 = memLookup s.buf l.1.toNat := by
  unfold loadsElement at h
  split at h
  · split at h <;> cases h
    rfl
  · cases h

/-- The taking of the outstanding request is a step with which SHOW goes on. -/
def TakingRefreshes (s : State) (a : Answer) (ts : List Turn) : Prop :=
  ∃ s', step s = .next s' ∧ s'.turns = ts ∧ Refreshes [.take a] s (loadsElement s).toList s'

/-- A taking goes on with SHOW if it sends the next request of those still to be sent. -/
theorem takingRefreshes_of_next {s s' : State} {a : Answer} {ts : List Turn} {e : Request}
    {load : Option (Word × Pixel)} (loaded : loadsElement s = load) (run : step s = .next s')
    (frame : s' = { s with turns := ts, trace := s.trace ++ [e], phase := s'.phase, pulseCnt := s'.pulseCnt,
                           pixIdx := s'.pixIdx, bitIdx := s'.bitIdx, shreg := s'.shreg, dataLvl := s'.dataLvl,
                           clkLvl := s'.clkLvl })
    (underway : Underway s') (levels : settledLevels s' = settledLevels s)
    (indices : restIndices s = load.toList.map (fun l => l.1.toNat) ++ restIndices s')
    (requests : ∀ vs, vs.length = (restIndices s').length →
      restTrace s (load.toList.map Prod.snd ++ vs) = e :: restTrace s' vs) :
    TakingRefreshes s a ts := by
  subst loaded
  have trace : s'.trace = s.trace ++ [e] := by rw [frame]
  exact ⟨s', run, by rw [frame], {
    underway := underway
    cfg := by rw [frame]
    pixels := by rw [frame]
    owner := by rw [frame]
    levels := levels
    indices := indices
    requests := fun vs len => by rw [requests vs len, trace, List.append_assoc]; rfl
    counted := by rw [trace, List.length_append]; rfl
    untouched := fun _ => by rw [frame]; exact ⟨rfl, rfl, rfl, rfl, rfl, rfl, rfl⟩
    values := fun _ l hl => loadsElement_value s l (Option.mem_toList.1 hl) }⟩

section
variable {s : State} {a : Answer} {ts : List Turn} (ht : s.turns = .take a :: ts) (underway : Underway s)
include ht underway

/-- R129: the data-low write; then the preamble's pulses, the frames or the blank. -/
theorem takingRefreshes_tDlow (hp : s.phase = .tDlow) : TakingRefreshes s a ts := by
  obtain ⟨mode, -, -⟩ := underway
  obtain ⟨sends, pixels, noPixels, -⟩ := preamblePhaseSteps s a ts ht
  have noLoad := loadsElement_of_phase_ne s (by simp [hp])
  by_cases hP : 0#16 < s.cfg.preamblePulses
  · have pos : 0 < s.cfg.preamblePulses.toNat := hP
    refine takingRefreshes_of_next noLoad (sends hp hP) rfl ⟨mode, rfl, ?_⟩ ?_ ?_ fun vs _ => ?_
    · simp [countersFit, hP]
    · simp [settledLevels, hp, pos]
    · simp [restIndices, indicesFrom, hp]
    · simp [restTrace, hp, showTrace_eq, framesToEnd]
  · have noPulses : s.cfg.preamblePulses = 0#16 := by bv_omega
    by_cases hN : 0#32 < s.N
    · have pos : 0 < s.N.toNat := hN
      refine takingRefreshes_of_next noLoad (pixels hp noPulses hN) rfl ⟨mode, rfl, ?_⟩ ?_ ?_ fun vs _ => ?_
      · simp [countersFit, hN]
      · simp [settledLevels, hp, pos]
      · simp [restIndices, indicesFrom, hp]
      · simp [restTrace, hp, showTrace_eq, framesToEnd, noPulses, pulses]
    · have hN : s.N = 0#32 := by bv_omega
      refine takingRefreshes_of_next noLoad (noPixels hp noPulses hN) rfl ⟨mode, rfl, rfl⟩ ?_ ?_ fun vs len => ?_
      · simp [settledLevels, hp, hN, noPulses]
      · simp [restIndices, indicesFrom, hp, hN]
      · obtain rfl : vs = [] := List.length_eq_zero_iff.1 len
        simp [restTrace, hp, showTrace_eq, noPulses, pulses, framesTrace]

/-- R130. -/
theorem takingRefreshes_tPreHi (hp : s.phase = .tPreHi) : TakingRefreshes s a ts := by
  obtain ⟨mode, -, counters⟩ := underway
  obtain ⟨-, -, -, high, -⟩ := preamblePhaseSteps s a ts ht
  have run : s.pulseCnt < s.cfg.preamblePulses := by simpa [countersFit, hp] using counters
  have noLoad := loadsElement_of_phase_ne s (by simp [hp])
  refine takingRefreshes_of_next noLoad (high hp) rfl ⟨mode, rfl, ?_⟩ ?_ ?_ fun vs _ => ?_
  · simp [countersFit, run]
  · simp [settledLevels, hp]
  · simp [restIndices, indicesFrom, hp]
  · simp [restTrace, hp, pulses_sub s.cfg _ _ (BitVec.lt_def.1 run)]

/-- R131: the falling half of a preamble pulse; then the next pulse, the frames or the blank. -/
theorem takingRefreshes_tPreLo (hp : s.phase = .tPreLo) : TakingRefreshes s a ts := by
  obtain ⟨mode, -, counters⟩ := underway
  obtain ⟨-, -, -, -, next, pixels, noPixels⟩ := preamblePhaseSteps s a ts ht
  have run : s.pulseCnt < s.cfg.preamblePulses := by simpa [countersFit, hp] using counters
  have count := toNat_succ_of_lt _ _ run
  have noLoad := loadsElement_of_phase_ne s (by simp [hp])
  by_cases last : s.pulseCnt + 1#16 = s.cfg.preamblePulses
  · rw [last] at count
    by_cases hN : 0#32 < s.N
    · refine takingRefreshes_of_next noLoad (pixels hp last hN) rfl ⟨mode, rfl, ?_⟩ ?_ ?_ fun vs _ => ?_
      · simp [countersFit, hN]
      · simp [settledLevels, hp]
      · simp [restIndices, indicesFrom, hp]
      · simp [restTrace, hp, count, pulses]
    · have hN : s.N = 0#32 := by bv_omega
      refine takingRefreshes_of_next noLoad (noPixels hp last hN) rfl ⟨mode, rfl, rfl⟩ ?_ ?_ fun vs len => ?_
      · simp [settledLevels, hp]
      · simp [restIndices, indicesFrom, hp, hN]
      · obtain rfl : vs = [] := List.length_eq_zero_iff.1 len
        simp [restTrace, hp, count, pulses, framesToEnd, framesTrace]
  · refine takingRefreshes_of_next noLoad (next hp last) rfl ⟨mode, rfl, ?_⟩ ?_ ?_ fun vs _ => ?_
    · simp [countersFit, pulse_succ_lt _ _ run last]
    · simp [settledLevels, hp]
    · simp [restIndices, indicesFrom, hp]
    · simp [restTrace, hp, count]

/-- R132: the data write of a bit; at bit 24 the element of the pixel is loaded. -/
theorem takingRefreshes_tBitD (hp : s.phase = .tBitD) : TakingRefreshes s a ts := by
  obtain ⟨mode, -, counters⟩ := underway
  obtain ⟨first, later, -⟩ := frameBitPhaseSteps s a ts ht
  obtain ⟨⟨pixel, bit⟩, marker⟩ :
      (s.pixIdx < s.N ∧ s.bitIdx ≤ 24#5) ∧ (s.bitIdx = 24#5 ∨ s.shreg.getLsbD 24 = true) := by
    simpa [countersFit, hp] using counters
  by_cases hb : s.bitIdx = 24#5
  · have load : loadsElement s = some (s.pixIdx, memLookup s.buf s.pixIdx.toNat) := by simp [loadsElement, ht, hp, hb]
    refine takingRefreshes_of_next load (first hp hb mode pixel) rfl ⟨mode, rfl, ?_⟩ ?_ ?_ fun vs _ => ?_
    · simp [countersFit, pixel, bit, frame_marker]
    · simp [settledLevels, hp]
    · simp [restIndices, hp, hb, indicesFrom_of_lt s _ (BitVec.lt_def.1 pixel)]
      rfl
    · simp [restTrace, hp, hb, framesToEnd, framesTrace, frameTrace, Config.frameBits, Config.markerBits,
        Config.colorBits, bitsTrace, frame_marker]
  · have below : s.bitIdx < 24#5 := by bv_omega
    have load : loadsElement s = none := by simp [loadsElement, ht, hp, hb]
    refine takingRefreshes_of_next load (later hp below) rfl ⟨mode, rfl, ?_⟩ ?_ ?_ fun vs _ => ?_
    · simp [countersFit, pixel, bit, marker.resolve_left hb]
    · simp [settledLevels, hp]
    · simp [restIndices, indicesFrom, hp, hb]
    · simp [restTrace, hp, hb, bitsTrace]

/-- R133. -/
theorem takingRefreshes_tBitHi (hp : s.phase = .tBitHi) : TakingRefreshes s a ts := by
  obtain ⟨mode, -, counters⟩ := underway
  obtain ⟨-, -, high, -⟩ := frameBitPhaseSteps s a ts ht
  have noLoad := loadsElement_of_phase_ne s (by simp [hp])
  refine takingRefreshes_of_next noLoad (high hp) rfl ⟨mode, rfl, ?_⟩ ?_ ?_ fun vs _ => ?_
  · simpa [countersFit, hp] using counters
  · simp [settledLevels, hp]
  · simp [restIndices, indicesFrom, hp]
  · simp [restTrace, hp, pulse]

/-- R134: the falling half of a bit's pulse; then the next bit, the next pixel or the blank. -/
theorem takingRefreshes_tBitLo (hp : s.phase = .tBitLo) : TakingRefreshes s a ts := by
  obtain ⟨mode, -, counters⟩ := underway
  obtain ⟨-, -, -, nextBit, nextPixel, lastPixel⟩ := frameBitPhaseSteps s a ts ht
  obtain ⟨⟨pixel, bit⟩, marker⟩ : (s.pixIdx < s.N ∧ s.bitIdx ≤ 24#5) ∧ s.shreg.getLsbD 24 = true := by
    simpa [countersFit, hp] using counters
  have index := toNat_succ_of_lt _ _ pixel
  have noLoad := loadsElement_of_phase_ne s (by simp [hp])
  by_cases more : 0#5 < s.bitIdx
  · have notFirst : s.bitIdx - 1#5 ≠ 24#5 := by bv_omega
    have below : s.bitIdx - 1#5 ≤ 24#5 := by bv_omega
    have count : (s.bitIdx - 1#5).toNat + 1 = s.bitIdx.toNat := by bv_omega
    refine takingRefreshes_of_next noLoad (nextBit hp more) rfl ⟨mode, rfl, ?_⟩ ?_ ?_ fun vs _ => ?_
    · simp [countersFit, pixel, below, marker]
    · simp [settledLevels, hp]
    · simp [restIndices, indicesFrom, hp, notFirst]
    · simp [restTrace, hp, notFirst, count, -BitVec.toNat_sub]
  · have hb : s.bitIdx = 0#5 := by bv_omega
    by_cases hN : s.pixIdx + 1#32 < s.N
    · refine takingRefreshes_of_next noLoad (nextPixel hp hb hN) rfl ⟨mode, rfl, ?_⟩ ?_ ?_ fun vs _ => ?_
      · simp [countersFit, hN]
      · simp [settledLevels, hp]
      · simp [restIndices, indicesFrom, hp, index]
      · simp [restTrace, hp, hb, bitsTrace]
    · have all := BitVec.not_lt.1 hN
      have noMore : indicesFrom s (s.pixIdx.toNat + 1) = [] :=
        indicesFrom_of_le s _ (index ▸ BitVec.le_def.1 all)
      refine takingRefreshes_of_next noLoad (lastPixel hp hb all) rfl ⟨mode, rfl, rfl⟩ ?_ ?_ fun vs len => ?_
      · simp [settledLevels, hp]
      · simp [restIndices, hp, noMore]
      · obtain rfl : vs = [] := List.length_eq_zero_iff.1 len
        simp [restTrace, hp, hb, bitsTrace, framesToEnd, framesTrace]

/-- R135: the data-low write; then the blank's pulses or the pause. -/
theorem takingRefreshes_tBlkDlow (hp : s.phase = .tBlkDlow) : TakingRefreshes s a ts := by
  obtain ⟨mode, -, -⟩ := underway
  obtain ⟨sends, noPulses, -⟩ := blankAndSettlePhaseSteps s a ts ht
  have noLoad := loadsElement_of_phase_ne s (by simp [hp])
  by_cases hB : 0#16 < s.cfg.blankPulses
  · have pos : 0 < s.cfg.blankPulses.toNat := hB
    refine takingRefreshes_of_next noLoad (sends hp hB) rfl ⟨mode, rfl, ?_⟩ ?_ ?_ fun vs _ => ?_
    · simp [countersFit, hB]
    · simp [settledLevels, hp, pos]
    · simp [restIndices, hp]
    · simp [restTrace, hp, endTrace, blankTrace]
  · have empty : s.cfg.blankPulses = 0#16 := by bv_omega
    refine takingRefreshes_of_next noLoad (noPulses hp empty) rfl ⟨mode, rfl, rfl⟩ ?_ ?_ fun vs _ => ?_
    · simp [settledLevels, hp, empty]
    · simp [restIndices, hp]
    · simp [restTrace, hp, endTrace, blankTrace, empty, pulses]

/-- R136. -/
theorem takingRefreshes_tBlkHi (hp : s.phase = .tBlkHi) : TakingRefreshes s a ts := by
  obtain ⟨mode, -, counters⟩ := underway
  obtain ⟨-, -, high, -⟩ := blankAndSettlePhaseSteps s a ts ht
  have run : s.pulseCnt < s.cfg.blankPulses := by simpa [countersFit, hp] using counters
  have noLoad := loadsElement_of_phase_ne s (by simp [hp])
  refine takingRefreshes_of_next noLoad (high hp) rfl ⟨mode, rfl, ?_⟩ ?_ ?_ fun vs _ => ?_
  · simp [countersFit, run]
  · simp [settledLevels, hp]
  · simp [restIndices, hp]
  · simp [restTrace, hp, pulses_sub s.cfg _ _ (BitVec.lt_def.1 run)]

/-- R137: the falling half of a blank pulse; then the next pulse or the pause. -/
theorem takingRefreshes_tBlkLo (hp : s.phase = .tBlkLo) : TakingRefreshes s a ts := by
  obtain ⟨mode, -, counters⟩ := underway
  obtain ⟨-, -, -, pause, next, -⟩ := blankAndSettlePhaseSteps s a ts ht
  have run : s.pulseCnt < s.cfg.blankPulses := by simpa [countersFit, hp] using counters
  have count := toNat_succ_of_lt _ _ run
  have noLoad := loadsElement_of_phase_ne s (by simp [hp])
  by_cases last : s.pulseCnt + 1#16 = s.cfg.blankPulses
  · rw [last] at count
    refine takingRefreshes_of_next noLoad (pause hp last) rfl ⟨mode, rfl, rfl⟩ ?_ ?_ fun vs _ => ?_
    · simp [settledLevels, hp]
    · simp [restIndices, hp]
    · simp [restTrace, hp, count, pulses]
  · refine takingRefreshes_of_next noLoad (next hp last) rfl ⟨mode, rfl, ?_⟩ ?_ ?_ fun vs _ => ?_
    · simp [countersFit, pulse_succ_lt _ _ run last]
    · simp [settledLevels, hp]
    · simp [restIndices, hp]
    · simp [restTrace, hp, count]

/-- Every taking before the pause. -/
theorem takingRefreshes (notPause : s.phase ≠ .tSettle) : TakingRefreshes s a ts := by
  have fits : phaseFits s.phase .tx = true := underway.2.1
  cases hp : s.phase with
  | tDlow => exact takingRefreshes_tDlow ht underway hp
  | tPreHi => exact takingRefreshes_tPreHi ht underway hp
  | tPreLo => exact takingRefreshes_tPreLo ht underway hp
  | tBitD => exact takingRefreshes_tBitD ht underway hp
  | tBitHi => exact takingRefreshes_tBitHi ht underway hp
  | tBitLo => exact takingRefreshes_tBitLo ht underway hp
  | tBlkDlow => exact takingRefreshes_tBlkDlow ht underway hp
  | tBlkHi => exact takingRefreshes_tBlkHi ht underway hp
  | tBlkLo => exact takingRefreshes_tBlkLo ht underway hp
  | tSettle => exact absurd hp notPause
  | noPhase | iSetup | iCfgD | iCfgC => simp [hp, phaseFits] at fits

end

end Sys2Proof.Machine
end

section
/-! PROOFS. A SHOW as a whole (41_protocol_engine.md R126, R139 to R141), whatever the hosts do between its phase steps:
at each point, what it has sent and loaded together with what it still has to is `T_show`. -/

namespace Sys2Proof.Machine

/-! ### All takings of a SHOW -/

theorem two_le_append_framesToEnd (c : Config) (vs : List Pixel) (t : List Request) :
    2 ≤ (t ++ framesToEnd c vs).length := by
  simp only [framesToEnd, endTrace, blankTrace, List.length_append, List.length_cons]
  omega

/-- Before the pause there is more than one request to send. -/
theorem two_le_restTrace (s : State) (vs : List Pixel) (underway : Underway s) (notPause : s.phase ≠ .tSettle) :
    2 ≤ (restTrace s vs).length := by
  obtain ⟨-, fits, counters⟩ := underway
  cases hp : s.phase with
  | tDlow =>
    simp only [restTrace, hp, length_showTrace, showLength]
    omega
  | tPreHi | tBitD => simpa only [restTrace, hp] using two_le_append_framesToEnd s.cfg vs _
  | tPreLo | tBitLo =>
    simp only [restTrace, hp]
    exact (two_le_append_framesToEnd s.cfg vs _).trans (Nat.le_succ _)
  | tBitHi => simp [restTrace, hp, pulse]
  | tBlkDlow => simp [restTrace, hp, endTrace, blankTrace]
  | tBlkHi =>
    have run : s.pulseCnt < s.cfg.blankPulses := by simpa [countersFit, hp] using counters
    simp [restTrace, hp, pulses_sub s.cfg _ _ (BitVec.lt_def.1 run)]
  | tBlkLo => simp [restTrace, hp]
  | tSettle => exact absurd hp notPause
  | noPhase | iSetup | iCfgD | iCfgC => simp [hp, phaseFits] at fits

theorem isTake_or_isHostSide (t : Turn) (notReset : t ≠ .reset) : (∃ a, t = .take a) ∨ t.isHostSide = true := by
  cases t with
  | host p w => exact .inr rfl
  | accept p => exact .inr rfl
  | take a => exact .inl ⟨a, rfl⟩
  | reset => exact absurd rfl notReset

/-- R61: turns of any agents, with fewer takings than there are requests to send, go on with SHOW. -/
theorem steps_refreshes (played ts : List Turn) (s : State) (underway : Underway s) (ht : s.turns = played ++ ts)
    (present : ∀ t ∈ played, t ≠ .reset ∧ t.present s.cfg = true)
    (few : ∀ vs, vs.length = (restIndices s).length → played.countP Turn.isTake < (restTrace s vs).length) :
    ∃ u, steps played.length s = .next u ∧ u.turns = ts ∧ Refreshes played s (loads played.length s) u := by
  induction played generalizing s with
  | nil => exact ⟨s, rfl, ht, .refl s underway⟩
  | cons t played ih =>
    obtain ⟨⟨notReset, here⟩, later⟩ := List.forall_mem_cons.1 present
    obtain ⟨s', run, turns, first⟩ : ∃ s', step s = .next s' ∧ s'.turns = played ++ ts ∧
        Refreshes [t] s (loadsElement s).toList s' := by
      rcases isTake_or_isHostSide t notReset with ⟨a, rfl⟩ | hostSide
      · refine takingRefreshes ht underway fun pause => ?_
        have one := few (List.replicate (restIndices s).length 0) (by simp)
        simp [restTrace, pause, Turn.isTake] at one
      · exact refreshes_of_hostSide s t _ ht underway hostSide here
    have few' (vs : List Pixel) (len : vs.length = (restIndices s').length) :
        played.countP Turn.isTake < (restTrace s' vs).length := by
      have before := few ((loadsElement s).toList.map Prod.snd ++ vs) (by simp [first.indices, len])
      have same := congrArg List.length (first.requests vs len)
      have sent := first.counted
      rw [List.length_append, List.length_append] at same
      rw [← List.singleton_append, List.countP_append] at before
      omega
    obtain ⟨u, runs, rest, second⟩ := ih s' first.underway turns (by simpa [first.cfg] using later) few'
    refine ⟨u, (steps_succ_of_next _ _ _ run).trans runs, rest, ?_⟩
    have all : loads (played.length + 1) s = (loadsElement s).toList ++ loads played.length s' := by
      rw [loads, run]
    exact all ▸ first.trans second

/-- SHOW admitted in `s` (R125). -/
def showBegun (s : State) : State := { s with mode := .tx, phase := .tDlow, owner := s.port }

theorem showBegun_underway (s : State) : Underway (showBegun s) := ⟨rfl, rfl, rfl⟩

theorem restIndices_showBegun (s : State) : restIndices (showBegun s) = List.range s.N.toNat :=
  (List.range_eq_range' (n := s.N.toNat)).symm

/-- What a SHOW has done when it comes to its pause (R138). -/
structure ShowPauses (played : List Turn) (s : State) (ls : List (Word × Pixel)) (u : State) : Prop where
  phase : u.phase = .tSettle
  refreshes : Refreshes played (showBegun s) ls u
  indices : ls.map (fun l => l.1.toNat) = List.range s.N.toNat
  requests : u.trace ++ [.sleep s.cfg.settleMs] = s.trace ++ showTrace s.cfg (ls.map Prod.snd)
  dataLow : u.dataLvl = .low
  clock : u.clkLvl = if 0 < s.cfg.preamblePulses.toNat + 25 * s.N.toNat + s.cfg.blankPulses.toNat then .low
    else s.clkLvl

/-- With one request left to send, SHOW is at its pause. -/
theorem showPauses_of_refreshes {played : List Turn} {s u : State} {ls : List (Word × Pixel)}
    (h : Refreshes played (showBegun s) ls u) (count : played.countP Turn.isTake + 1 = showLength s.cfg s.N.toNat) :
    ShowPauses played s ls u := by
  have indices := h.indices
  rw [restIndices_showBegun] at indices
  have phase : u.phase = .tSettle := by
    by_contra notPause
    obtain ⟨vs, len⟩ : ∃ vs : List Pixel, vs.length = (restIndices u).length :=
      ⟨List.replicate _ 0, List.length_replicate⟩
    have more := two_le_restTrace u vs h.underway notPause
    have pixels : (ls.map Prod.snd ++ vs).length = s.N.toNat := by simpa [len] using (congrArg List.length indices).symm
    have total : (restTrace (showBegun s) (ls.map Prod.snd ++ vs)).length = showLength s.cfg s.N.toNat :=
      pixels ▸ length_showTrace s.cfg _
    have same := congrArg List.length (h.requests vs len)
    have sent := h.counted
    rw [List.length_append, List.length_append] at same
    omega
  have done : restIndices u = [] := by simp only [restIndices, phase]
  have levels : settledLevels u = (u.dataLvl, u.clkLvl) := by simp only [settledLevels, phase]
  have requests := h.requests [] (by rw [done]; rfl)
  exact {
    phase := phase
    refreshes := h
    indices := by simpa [done] using indices.symm
    requests := by simpa [restTrace, phase, h.cfg, showBegun] using requests.symm
    dataLow := congrArg Prod.fst (levels.symm.trans h.levels)
    clock := congrArg Prod.snd (levels.symm.trans h.levels) }

/-- An admitted SHOW with all requests but the last one taken. -/
theorem showBegun_runs_to_pause (s : State) (played ts : List Turn) (ht : s.turns = played ++ ts)
    (present : ∀ t ∈ played, t ≠ .reset ∧ t.present s.cfg = true)
    (count : played.countP Turn.isTake + 1 = showLength s.cfg s.N.toNat) :
    ∃ u, steps played.length (showBegun s) = .next u ∧ u.turns = ts ∧
      ShowPauses played s (loads played.length (showBegun s)) u := by
  have few (vs : List Pixel) (len : vs.length = (restIndices (showBegun s)).length) :
      played.countP Turn.isTake < (restTrace (showBegun s) vs).length := by
    have total : (restTrace (showBegun s) vs).length = showLength s.cfg vs.length := length_showTrace s.cfg vs
    rw [restIndices_showBegun, List.length_range] at len
    rw [total, len]
    omega
  obtain ⟨u, run, turns, h⟩ := steps_refreshes played ts (showBegun s) (showBegun_underway s) ht present few
  exact ⟨u, run, turns, showPauses_of_refreshes h count⟩

/-! ### The end of SHOW (R138) -/

theorem loads_succ (n : Nat) (s u : State) (h : steps n s = .next u) :
    loads (n + 1) s = loads n s ++ (loadsElement u).toList := by
  induction n generalizing s with
  | zero =>
    cases h
    cases e : step u <;> simp [loads, e]
  | succ n ih =>
    cases e : step s with
    | next t =>
      rw [steps_succ_of_next _ _ _ e] at h
      rw [loads, e, loads, e, List.append_assoc]
      exact congrArg _ (ih t h)
    | fault r => simp [steps, e] at h
    | refused r => simp [steps, e] at h

/-- What is so of the state a SHOW begun in `s` ends in. -/
structure ShowDone (s : State) (ls : List (Word × Pixel)) (ts : List Turn) (s' : State) : Prop where
  trace : s'.trace = s.trace ++ showTrace s.cfg (ls.map Prod.snd)
  status : s'.status = .ok
  mode : s'.mode = .idle
  phase : s'.phase = .noPhase
  pixels : s'.N = s.N
  dataLow : s'.dataLvl = .low
  clock : s'.clkLvl = if 0 < s.cfg.preamblePulses.toNat + 25 * s.N.toNat + s.cfg.blankPulses.toNat then .low
    else s.clkLvl
  cfg : s'.cfg = s.cfg
  turns : s'.turns = ts

/-- R138: the pause ends SHOW. -/
theorem ShowPauses.done {played ts : List Turn} {s u : State} {ls : List (Word × Pixel)}
    (h : ShowPauses played s ls u) : ShowDone s ls ts (phaseTSettle { u with turns := ts }) where
  trace := by simp [phaseTSettle, h.refreshes.cfg, h.requests, showBegun]
  status := rfl
  mode := respondOn_mode _ _ _ _
  phase := respondOn_phase _ _ _ _
  pixels := (respondOn_N _ _ _ _).trans h.refreshes.pixels
  dataLow := (respondOn_dataLvl _ _ _ _).trans h.dataLow
  clock := (respondOn_clkLvl _ _ _ _).trans h.clock
  cfg := (respondOn_cfg _ _ _ _).trans h.refreshes.cfg
  turns := respondOn_turns _ _ _ _

/-- The last taking of a SHOW. -/
theorem steps_of_pause {n : Nat} {s u : State} {a : Answer} {ts : List Turn} (run : steps n s = .next u)
    (phase : u.phase = .tSettle) (turns : u.turns = .take a :: ts) :
    steps (n + 1) s = .next (phaseTSettle { u with turns := ts }) := by
  rw [steps_add n 1 s u run, steps_succ_of_next 0 _ _ (step_of_tSettle turns phase), steps_zero]

/-- Settles O37: all takings but the last lead to the pause (`showBegun_runs_to_pause`), whatever stands
between them. -/
theorem showSendsEachLoadedElement : Obligations.ShowSendsEachLoadedElement := by
  intro s between a ts mode present count ht
  obtain ⟨u, run, turns, pause⟩ := showBegun_runs_to_pause s between (.take a :: ts) ht present count
  have done : ShowDone s _ ts _ := pause.done
  have owner : u.owner = s.port := pause.refreshes.owner
  have noLoad := loadsElement_of_phase_ne u (by simp [pause.phase])
  have all : loads (between.length + 1) (showBegun s) = loads between.length (showBegun s) := by
    rw [loads_succ _ _ _ run, noLoad, Option.toList_none, List.append_nil]
  rw [← all] at pause done
  refine ⟨showBegun s, _, execShowGrid_of_idle s mode, steps_of_pause run pause.phase turns, pause.indices, done.trace,
    ?_, done.status, done.mode, done.phase, done.pixels, done.dataLow, done.clock, done.turns⟩
  rw [phaseTSettle, respondOn_responses, if_pos owner.symm, List.getLast?_concat]

/-! ### A SHOW that nothing interrupts (R139 to R141) -/

/-- Where nothing is written between the loads, they give the buffer as it stands. -/
theorem loads_eq_bufferValues {played : List Turn} {s u : State} {ls : List (Word × Pixel)}
    (h : ShowPauses played s ls u) (takes : ∀ t ∈ played, t.isTake = true) : ls.map Prod.snd = bufferValues s := by
  rw [bufferValues, ← h.indices, List.map_map]
  exact List.map_congr_left (h.refreshes.values takes)

/-- Settles O36: no turn but takings, so the loads are the buffer and the hosts' fields stand
(`Refreshes.untouched`). -/
theorem showRunsItsClosedForm : Obligations.ShowRunsItsClosedForm := by
  intro s answers ts mode count ht
  obtain ⟨before, a, rfl⟩ : ∃ before a, answers = before ++ [a] := by
    refine ⟨_, _, (List.dropLast_append_getLast (l := answers) ?_).symm⟩
    rintro rfl
    simp [showLength] at count
    omega
  have takes : ∀ t ∈ before.map Turn.take, t.isTake = true := by simp [Turn.isTake]
  have present : ∀ t ∈ before.map Turn.take, t ≠ .reset ∧ t.present s.cfg = true := by simp [Turn.present]
  have taken : (before.map Turn.take).countP Turn.isTake = before.length := by
    rw [List.countP_eq_length.2 takes, List.length_map]
  obtain ⟨u, run, turns, pause⟩ := showBegun_runs_to_pause s (before.map .take) (.take a :: ts) (by simpa using ht)
    present (by simpa [taken] using count)
  have done : ShowDone s _ ts _ := pause.done
  have same : Untouched (showBegun s) u := pause.refreshes.untouched takes
  have owner : u.owner = s.port := pause.refreshes.owner
  have trace := done.trace
  rw [loads_eq_bufferValues pause takes] at trace
  rw [List.length_map] at run
  refine ⟨showBegun s, _, execShowGrid_of_idle s mode, rfl, ?_, trace, ?_, done.mode, done.phase, ?_, done.pixels,
    done.dataLow, done.clock, done.cfg, ?_, ?_, ?_, ?_, done.turns⟩
  · rw [List.length_append]
    exact steps_of_pause run pause.phase turns
  · rw [phaseTSettle, ← owner]
    exact responded_respondOn _ _ _ _ _ same.rsp0 same.rsp1
  · exact (respondOn_buf _ _ _ _).trans same.buf
  · exact (respondOn_pendCount _ _ _ _).trans same.pendCount
  · exact (respondOn_cmd0 _ _ _ _).trans same.cmd0
  · exact (respondOn_cmd1 _ _ _ _).trans same.cmd1
  · exact (respondOn_port _ _ _ _).trans same.port

/-- R141: a SHOW waiting on `CMD0`, from its accept step to its end. -/
theorem waiting_show_runs (s : State) (answers : List Answer) (words : List Word) (ts : List Turn)
    (mode : s.mode = .idle) (waits : s.cmd0 = encode .showGrid ++ words)
    (count : answers.length = showLength s.cfg s.N.toNat) (ht : s.turns = .accept .h0 :: (answers.map .take ++ ts)) :
    ∃ s', steps (1 + answers.length) s = .next s' ∧ s'.trace = s.trace ++ showTrace s.cfg (bufferValues s) ∧
      s'.rsp0 = s.rsp0 ++ [{ status := .ok, data := none }] ∧ s'.rsp1 = s.rsp1 ∧ s'.mode = .idle ∧ s'.phase = .noPhase ∧
      s'.status = .ok ∧ s'.buf = s.buf ∧ s'.N = s.N ∧ s'.cfg = s.cfg ∧ s'.pendCount = s.pendCount ∧ s'.cmd0 = words ∧
      s'.cmd1 = s.cmd1 ∧ s'.turns = ts := by
  have decoded : decode (s.words .h0) = .command .showGrid words := by
    rw [words_h0, waits]
    exact encodedCommandDecodes .showGrid words
  have accepts := stepRunsTheDecodedCommand.1 s .h0 .showGrid words _ ht rfl (by simp [State.busy, mode]) decoded
  obtain ⟨s₁, s', begun, -, run, trace, ⟨status, answer, others⟩, idle, phase, buf, pixels, -, -, cfg, pend, cmd0, cmd1,
      -, turns⟩ :=
    showRunsItsClosedForm (consume .h0 words { s with turns := answers.map .take ++ ts }) answers ts mode count rfl
  rw [begun] at accepts
  refine ⟨s', ?_, trace, answer, others .h1 (by simp), idle, phase, status, buf, pixels, cfg, pend, cmd0, cmd1, turns⟩
  rw [Nat.add_comm, steps_succ_of_next _ _ _ accepts, run]

/-- Settles O39: two waiting SHOWs one after the other (`waiting_show_runs`), the second from the buffer of the
first. -/
theorem showTwiceSameRequests : Obligations.ShowTwiceSameRequests := by
  intro s as₁ as₂ words ts mode waits count₁ count₂ ht
  obtain ⟨t, run, trace, rsp0, rsp1, idle, -, -, buf, pixels, cfg, pend, cmd0, cmd1, turns⟩ :=
    waiting_show_runs s as₁ (encode .showGrid ++ words) (.accept .h0 :: (as₂.map .take ++ ts)) mode
      (by simpa using waits) count₁ (by simpa using ht)
  obtain ⟨s', run', trace', rsp0', rsp1', idle', phase', status', buf', pixels', cfg', pend', cmd0', cmd1', -⟩ :=
    waiting_show_runs t as₂ words ts idle cmd0 (by rw [cfg, pixels, count₂]) turns
  have values : bufferValues t = bufferValues s := by rw [bufferValues, bufferValues, buf, pixels]
  refine ⟨s', ?_, ?_, ?_, rsp1'.trans rsp1, idle', phase', status', buf'.trans buf, pixels'.trans pixels,
    cfg'.trans cfg, pend'.trans pend, cmd0', cmd1'.trans cmd1⟩
  · rw [show 2 + as₁.length + as₂.length = 1 + as₁.length + (1 + as₂.length) by omega, steps_add _ _ _ _ run, run']
  · rw [trace', trace, cfg, values]
  · rw [rsp0', rsp0, List.append_assoc]
    rfl

end Sys2Proof.Machine
end

section
/-! PROOFS. The result codes, the outcome of every command in every mode, what an error leaves alone, and a request that
is never taken (60_exceptions.md R160 to R163, R170). -/

namespace Sys2Proof.Machine

/-! ### The code numbers (R160) -/

theorem codeOfByte_codeByte (c : ResultCode) : codeOfByte (codeByte c) = some c := by
  cases c <;> rfl

theorem codeByte_lt (c : ResultCode) : codeByte c < 0x08#8 := by
  cases c <;> decide

/-- V6: a byte that reads as a code is that code's number. -/
theorem eq_codeByte_of_codeOfByte (b : Byte) (c : ResultCode) (h : codeOfByte b = some c) : b = codeByte c := by
  unfold codeOfByte at h
  split_ifs at h <;> cases h <;> assumption

/-- Settles O30: a byte that reads as a code is a code's number (`eq_codeByte_of_codeOfByte`), and those are below
0x08. -/
theorem resultCodeNumbers : Obligations.ResultCodeNumbers := by
  refine ⟨rfl, rfl, rfl, rfl, rfl, rfl, rfl, rfl, codeOfByte_codeByte, fun b reserved => ?_⟩
  refine Option.eq_none_iff_forall_ne_some.2 fun c h => ?_
  rw [eq_codeByte_of_codeOfByte b c h] at reserved
  exact BitVec.not_lt.2 reserved (codeByte_lt c)

/-! ### The first applicable error (R160, R162) -/

/-- R162: the codes are tried in order. -/
theorem reportedError_eq (i : Instr) (s : State) :
    reportedError i s =
      if errorApplies i s .busy = true then some .busy
      else if errorApplies i s .notInitialized = true then some .notInitialized
      else if errorApplies i s .alreadyInitialized = true then some .alreadyInitialized
      else if errorApplies i s .countTooLarge = true then some .countTooLarge
      else if errorApplies i s .outOfRange = true then some .outOfRange
      else none := by
  unfold reportedError errorPriority
  split_ifs <;> simp_all

/-- R34: `initialized` holds in all modes but those of NOT_INITIALIZED. -/
theorem not_initialized_iff (s : State) : s.initialized = false ↔ s.mode = .uninit ∨ s.mode = .initializing := by
  cases h : s.mode <;> simp [State.initialized, h]

theorem reportedError_init (count : Word) (s : State) :
    reportedError (.init count) s =
      if s.busy = true then some .busy
      else if s.mode = .idle then some .alreadyInitialized
      else if s.cfg.nMax < count then some .countTooLarge
      else none := by
  simp [reportedError_eq, errorApplies]

theorem reportedError_showGrid (s : State) :
    reportedError .showGrid s =
      if s.busy = true then some .busy else if s.initialized = false then some .notInitialized else none := by
  simp [reportedError_eq, errorApplies, not_initialized_iff]

theorem reportedError_clear (s : State) :
    reportedError .clear s = if s.initialized = false then some .notInitialized else none := by
  simp [reportedError_eq, errorApplies, not_initialized_iff]

/-- The error of a command that takes an index (R162). -/
def indexError (index : Word) (s : State) : Option ResultCode :=
  if s.initialized = false then some .notInitialized else if s.N ≤ index then some .outOfRange else none

theorem reportedError_setpx (index color : Word) (s : State) :
    reportedError (.setpx index color) s = indexError index s := by
  simp [reportedError_eq, errorApplies, indexError, not_initialized_iff]

theorem reportedError_setrgb (index r g b : Word) (s : State) :
    reportedError (.setrgb index r g b) s = indexError index s := by
  simp [reportedError_eq, errorApplies, indexError, not_initialized_iff]

theorem reportedError_getpx (index : Word) (s : State) : reportedError (.getpx index) s = indexError index s := by
  simp [reportedError_eq, errorApplies, indexError, not_initialized_iff]

/-- A command raises the error `report`; where there is none it is done with OK, or it is an INIT or SHOW that is
admitted and has not answered yet. -/
def AnswersReport (i : Instr) (s : State) (report : Option ResultCode) : Prop :=
  (∃ code, report = some code ∧ exec i s = .next (raiseError code s)) ∨
    (report = none ∧ ∃ data m, exec i s = .next (respondOk data { s with buf := m })) ∨
    (report = none ∧ ((∃ count, i = .init count) ∨ i = .showGrid) ∧
      ∃ s', exec i s = .next s' ∧ s'.status = s.status ∧ s'.rsp0 = s.rsp0 ∧ s'.rsp1 = s.rsp1)

theorem exec_init_answersReport (count : Word) (s : State) :
    AnswersReport (.init count) s (reportedError (.init count) s) := by
  simp only [AnswersReport, reportedError_init, exec, execInit]
  split_ifs
  · exact .inl ⟨_, rfl, rfl⟩
  · exact .inl ⟨_, rfl, rfl⟩
  · exact .inl ⟨_, rfl, rfl⟩
  · exact .inr (.inr ⟨rfl, .inl ⟨count, rfl⟩, _, rfl, rfl, rfl, rfl⟩)

theorem exec_showGrid_answersReport (s : State) : AnswersReport .showGrid s (reportedError .showGrid s) := by
  rw [reportedError_showGrid]
  cases mode : s.mode with
  | uninit => exact .inl ⟨_, by simp [State.busy, State.initialized, mode], execShowGrid_of_uninit s mode⟩
  | idle =>
    exact .inr (.inr ⟨by simp [State.busy, State.initialized, mode], .inr rfl, _, execShowGrid_of_idle s mode, rfl,
      rfl, rfl⟩)
  | initializing | tx =>
    have busy : s.busy = true := by simp [State.busy, mode]
    exact .inl ⟨_, if_pos busy, execShowGrid_of_busy s busy⟩

theorem exec_clear_answersReport (s : State) : AnswersReport .clear s (reportedError .clear s) := by
  rw [reportedError_clear]
  cases hi : s.initialized with
  | false => exact .inl ⟨_, rfl, execClear_of_not_initialized s hi⟩
  | true => exact .inr (.inl ⟨rfl, none, [], execClear_of_initialized s hi⟩)

theorem storePixel_answersReport (i : Instr) (k : Word) (v : Pixel) (s : State) (body : exec i s = storePixel k v s) :
    AnswersReport i s (indexError k s) := by
  rw [AnswersReport, body]
  rcases storePixel_cases k v s with ⟨hi, e⟩ | ⟨hi, hk, e⟩ | ⟨hi, hk, e⟩
  · exact .inl ⟨_, by simp [indexError, hi], e⟩
  · exact .inl ⟨_, by simp [indexError, hi, hk], e⟩
  · exact .inr (.inl ⟨by simp [indexError, hi, BitVec.not_le.2 hk], _, _, e⟩)

theorem exec_getpx_answersReport (k : Word) (s : State) : AnswersReport (.getpx k) s (indexError k s) := by
  rcases execGetpx_cases k s with ⟨hi, e⟩ | ⟨hi, hk, e⟩ | ⟨hi, hk, e⟩
  · exact .inl ⟨_, by simp [indexError, hi], e⟩
  · exact .inl ⟨_, by simp [indexError, hi, hk], e⟩
  · exact .inr (.inl ⟨by simp [indexError, hi, BitVec.not_le.2 hk], _, s.buf, e⟩)

/-- R160, R162: every command answers the first applicable error, or has its effect. -/
theorem exec_answersReport (i : Instr) (s : State) : AnswersReport i s (reportedError i s) := by
  cases i with
  | init count => exact exec_init_answersReport count s
  | setpx k color => exact reportedError_setpx k color s ▸ storePixel_answersReport _ k (colorPixel color) s rfl
  | setrgb k r g b => exact reportedError_setrgb k r g b s ▸ storePixel_answersReport _ k (channelsPixel r g b) s rfl
  | clear => exact exec_clear_answersReport s
  | showGrid => exact exec_showGrid_answersReport s
  | getpx k => exact reportedError_getpx k s ▸ exec_getpx_answersReport k s

/-- Settles O26, command by command (`exec_answersReport`). -/
theorem firstApplicableErrorReported : Obligations.FirstApplicableErrorReported := by
  intro i s
  rcases exec_answersReport i s with ⟨c, report, e⟩ | ⟨report, data, m, e⟩ | ⟨report, begins, s', e, same⟩ <;>
    rw [report]
  · exact ⟨fun code h => Option.some.inj h ▸ e, nofun⟩
  · exact ⟨nofun, fun _ => ⟨_, e, .inl ⟨data, (respondOk_frame data m s).1⟩⟩⟩
  · exact ⟨nofun, fun _ => ⟨s', e, .inr ⟨begins, same⟩⟩⟩

/-! ### The outcome by mode (R163) -/

/-- R163: the buffer commands outside IDLE and TX. -/
theorem exec_of_not_initialized (i : Instr) (s : State) (hi : s.initialized = false) (notInit : ∀ c, i ≠ .init c)
    (notShow : i ≠ .showGrid) : exec i s = .next (raiseError .notInitialized s) := by
  cases i with
  | init count => exact absurd rfl (notInit count)
  | setpx k color => exact storePixel_of_not_initialized k _ s hi
  | setrgb k r g b => exact storePixel_of_not_initialized k _ s hi
  | clear => exact execClear_of_not_initialized s hi
  | showGrid => exact absurd rfl notShow
  | getpx k => exact execGetpx_of_not_initialized k s hi

/-- The code of a command that takes an index, in IDLE and TX. -/
def rangeCode (index : Word) (s : State) : ResultCode := if s.N ≤ index then .outOfRange else .ok

theorem rangeCode_eq_ok_iff (index : Word) (s : State) : rangeCode index s = .ok ↔ index < s.N := by
  simp [rangeCode]

theorem rangeCode_eq_outOfRange_iff (index : Word) (s : State) : rangeCode index s = .outOfRange ↔ s.N ≤ index := by
  simp [rangeCode]

theorem responded_raiseError (code : ResultCode) (s : State) : Responded s.port code none s (raiseError code s) :=
  responded_respondOn s.port code none s s rfl rfl

/-- R163: SETPX and SETRGB in IDLE and TX. -/
theorem storePixel_responds (k : Word) (v : Pixel) (s : State) (hi : s.initialized = true) :
    ∃ s', storePixel k v s = .next s' ∧ Responded s.port (rangeCode k s) none s s' := by
  rcases storePixel_cases k v s with ⟨no, -⟩ | ⟨-, hk, e⟩ | ⟨-, hk, e⟩
  · exact absurd hi (by simp [no])
  · rw [(rangeCode_eq_outOfRange_iff k s).2 hk]
    exact ⟨_, e, responded_raiseError _ s⟩
  · rw [(rangeCode_eq_ok_iff k s).2 hk]
    exact ⟨_, e, (respondOk_frame none _ s).1⟩

/-- R163: GETPX in IDLE and TX. -/
theorem execGetpx_responds (k : Word) (s : State) (hi : s.initialized = true) :
    ∃ s' data, execGetpx k s = .next s' ∧ Responded s.port (rangeCode k s) data s s' := by
  rcases execGetpx_cases k s with ⟨no, -⟩ | ⟨-, hk, e⟩ | ⟨-, hk, e⟩
  · exact absurd hi (by simp [no])
  · rw [(rangeCode_eq_outOfRange_iff k s).2 hk]
    exact ⟨_, none, e, responded_raiseError _ s⟩
  · rw [(rangeCode_eq_ok_iff k s).2 hk]
    exact ⟨_, _, e, (respondOk_frame _ s.buf s).1⟩

/-- Settles O27, mode by mode, each cell by the lemma about its command. -/
theorem commandOutcomeByMode : Obligations.CommandOutcomeByMode := by
  refine fun s => ⟨fun mode => ⟨fun count fits => ?_, fun i => exec_of_uninit i s mode⟩,
    fun mode => ?_, fun mode => ⟨fun count => execInit_of_idle count s mode, ?_⟩, fun mode => ?_, fun mode => ?_,
    fun p why rest => acceptCommand_of_bad p why rest s⟩
  · exact ⟨_, execInit_of_admitted count s mode fits, rfl, rfl, rfl, rfl⟩
  · have busy : s.busy = true := (busy_iff s).2 (.inl mode)
    exact ⟨fun count => execInit_of_busy count s busy, execShowGrid_of_busy s busy, fun i =>
      exec_of_not_initialized i s (not_initialized_of_initializing s mode)⟩
  · exact ⟨_, execShowGrid_of_idle s mode, rfl, rfl, rfl, rfl⟩
  · have busy : s.busy = true := (busy_iff s).2 (.inr mode)
    exact ⟨fun count => execInit_of_busy count s busy, execShowGrid_of_busy s busy⟩
  · have hi := (initialized_iff s).2 mode
    intro k color r g b
    have ok := rangeCode_eq_ok_iff k s
    have out := rangeCode_eq_outOfRange_iff k s
    obtain ⟨s₁, set, answer₁⟩ := storePixel_responds k (colorPixel color) s hi
    obtain ⟨s₂, setRgb, answer₂⟩ := storePixel_responds k (channelsPixel r g b) s hi
    obtain ⟨s₃, data, get, answer₃⟩ := execGetpx_responds k s hi
    exact ⟨⟨s₁, _, set, answer₁, ok, out⟩, ⟨s₂, _, setRgb, answer₂, ok, out⟩, ⟨s₃, _, data, get, answer₃, ok, out⟩,
      ⟨_, execClear_of_initialized s hi, (respondOk_frame none [] s).1⟩⟩

/-! ### What an error leaves alone (R93, R161) -/

theorem raiseError_frame (code : ResultCode) (s : State) :
    (raiseError code s).buf = s.buf ∧ SameButBufferAndResult s (raiseError code s) := by
  simp [SameButBufferAndResult]

/-- R161: a command that answers an error changes only the result. -/
theorem exec_error_frame (i : Instr) (s s' : State) (code : ResultCode) (data : Option Word)
    (h : exec i s = .next s') (resp : Responded s.port code data s s') (notOk : code ≠ .ok) :
    s'.buf = s.buf ∧ SameButBufferAndResult s s' := by
  rcases exec_answersReport i s with ⟨c, -, e⟩ | ⟨-, d, m, e⟩ | ⟨-, -, u, e, -, same0, same1⟩ <;> rw [e] at h <;>
    cases h
  · exact raiseError_frame c s
  · exact absurd resp.1.symm notOk
  · exact absurd resp (not_responded _ _ _ _ _ same0 same1)

/-- R93: the only phase step that answers an error is one of INIT, on fail. -/
theorem initPhase_of_error (p : Port) (a : Answer) (s s' : State) (code : ResultCode) (data : Option Word)
    (h : phaseStep a s = .next s') (resp : Responded p code data s s') (notOk : code ≠ .ok) :
    a = .fail ∧ ∃ n, s.phase = initPhase n := by
  by_cases hn : s.phase = .noPhase
  · rw [phaseStep_noPhase a s hn] at h
    cases h
    exact absurd resp (not_responded _ _ _ _ _ rfl rfl)
  · obtain ⟨w, f, fits, rfl⟩ := phaseStep_cases a s s' hn h
    cases f with
    | goOn r => exact absurd resp (not_responded _ _ _ _ _ (w.apply_rsp0 s) (w.apply_rsp1 s))
    | initFailed =>
      obtain ⟨fail, init⟩ := fits
      rcases initPhase_of_phaseFits s.phase init with hp | hp | hp
      · exact ⟨fail, 0, hp⟩
      · exact ⟨fail, 1, hp⟩
      · exact ⟨fail, 2, hp⟩
    | initDone | showDone => exact absurd resp.1.symm notOk

/-- The requests of INIT are `Setup` and `Cfg` (R92). -/
theorem initRequest_kinds (c : Config) (n : Nat) : initRequest c n = .setup ∨ ∃ pin, initRequest c n = .cfg pin := by
  match n with
  | 0 => exact .inl rfl
  | 1 => exact .inr ⟨_, rfl⟩
  | _ + 2 => exact .inr ⟨_, rfl⟩

/-- Settles O28: an error of a command (`exec_error_frame`), and `INIT_FAIL` (`initPhase_of_error`,
`initFail_frame`). -/
theorem errorsChangeOnlyStatus : Obligations.ErrorsChangeOnlyStatus := by
  refine ⟨fun i s s' code data h resp notOk => ?_, fun s s' ts a code data ht h resp notOk => ?_⟩
  · exact ⟨(data_of_responded i s s' code data h resp).trans (if_neg notOk),
      exec_error_frame i s s' code data h resp notOk⟩
  · rw [step_of_take a s ts ht] at h
    obtain ⟨rfl, n, hp⟩ := initPhase_of_error s.owner a { s with turns := ts } s' code data h resp notOk
    rw [phaseStep_initPhase_fail n _ hp] at h
    cases h
    obtain ⟨rfl, rfl⟩ := responded_unique _ _ _ _ _ _ _ resp
      (responded_respondOn s.owner .initFailed none s _ rfl rfl)
    obtain ⟨buffer, frame⟩ := initFail_frame (request (initRequest s.cfg n) { s with turns := ts })
    exact ⟨rfl, rfl, buffer, _, initRequest_kinds s.cfg n, frame⟩

/-! ### A request that is never taken (R170) -/

/-- While busy no INIT and no SHOW is admitted, so a command leaves the sequencer alone. -/
theorem exec_keepsRefresh_of_busy (i : Instr) (s s' : State) (busy : s.busy = true) (h : exec i s = .next s') :
    KeepsRefresh s s' := by
  rcases exec_cases i s with ⟨code, -, e⟩ | ⟨data, m, -, -, e⟩ | ⟨count, -, mode, -⟩ | ⟨-, mode, -⟩
  · rw [e] at h; cases h; simp [KeepsRefresh]
  · rw [e] at h; cases h; simp [KeepsRefresh]
  · simp [State.busy, mode] at busy
  · simp [State.busy, mode] at busy

/-- R170: with the turn used up, only a take or a reset moves the sequencer while busy. -/
theorem step_keepsRefresh_of_untaken (s s' : State) (busy : s.busy = true)
    (untaken : ∀ a, s.turns.head? ≠ some (.take a)) (notReset : s.turns.head? ≠ some .reset)
    (h : step s = .next s') : KeepsRefresh (afterTurn s) s' := by
  rcases step_cases s s' h with ⟨rfl, -⟩ | ⟨p, w, -, -, rfl⟩ | ⟨p, why, rest, -, -, rfl⟩ |
    ⟨p, i, rest, -, -, run⟩ | ⟨a, taken, -⟩ | ⟨reset, -⟩
  · simp [KeepsRefresh]
  · simp [KeepsRefresh]
  · simp [KeepsRefresh]
  · simpa [KeepsRefresh] using exec_keepsRefresh_of_busy i _ s' (by simpa using busy) run
  · exact absurd taken (untaken a)
  · exact absurd reset notReset

/-- Settles O45 (`step_keepsRefresh_of_untaken`). -/
theorem untakenRequestHangs : Obligations.UntakenRequestHangs := by
  intro s s' busy untaken notReset h
  obtain ⟨-, mode, phase, pixels, pulse, pixel, bit, shreg, data, clock, trace, -⟩ :=
    step_keepsRefresh_of_untaken s s' busy untaken notReset h
  exact ⟨phase, mode, pixels, pulse, pixel, bit, shreg, data, clock, trace⟩

end Sys2Proof.Machine
end

section
/-! PROOFS. Reset, an ended run (70_reset_and_hazards.md R190, R192, R202) and the number of line writes of a SHOW
(R201). -/

namespace Sys2Proof.Machine

/-! ### Reset and the ended run -/

/-- Settles O47: the turn is `resetBlock` (`step_of_reset`), whose mode is UNINIT, so no element is readable. -/
theorem resetTurnResets : Obligations.ResetTurnResets := by
  intro s ts ht
  have turn : step s = .next (resetBlock (afterTurn s)) := step_of_reset s (by rw [ht, List.head?_cons])
  have unreadable (k : Word) : memRead k (resetBlock (afterTurn s)) = none :=
    memRead_of_uninit k _ (resetBlock_mode _)
  exact ⟨_, turn, rfl, rfl, rfl, rfl, unreadable, rfl, rfl, rfl, rfl, rfl, rfl, rfl, rfl, by simp [ht]⟩

/-- With no word on either port and no turn listed, both ports hold an incomplete command, which is waited for. -/
theorem step_of_no_words (s : State) (ht : s.turns = []) (empty0 : s.cmd0 = []) (empty1 : s.cmd1 = []) :
    step s = .next s :=
  incompleteCommandWaits.2 s ht (.inr (empty0 ▸ decode_nil)) (.inr (empty1 ▸ decode_nil))

/-- Settles O46: no word waits in an ended run, nor after reset (`step_of_no_words`). -/
theorem endedRunStands : Obligations.EndedRunStands := by
  refine ⟨fun s ended ht => ?_, ⟨rfl, rfl, .inl rfl, rfl⟩, step_of_no_words State.reset rfl rfl rfl⟩
  obtain ⟨empty0, empty1, -, -⟩ := ended
  exact step_of_no_words s ht empty0 empty1

/-! ### The writes of a SHOW (R201) -/

theorem countWrites_append (p : PinId) (t u : List Request) :
    countWrites p (t ++ u) = countWrites p t + countWrites p u := by
  induction t with
  | nil => exact (Nat.zero_add _).symm
  | cons e t ih =>
    cases e with
    | write q b => simp only [List.cons_append, countWrites, ih, Nat.add_assoc]
    | setup => exact ih
    | cfg q => exact ih
    | sleep ms => exact ih

theorem countWrites_pulses (p : PinId) (c : Config) (k : Nat) :
    countWrites p (pulses c k) = k * countWrites p (pulse c) := by
  induction k with
  | zero => exact (Nat.zero_mul _).symm
  | succ k ih => rw [pulses, countWrites_append, ih, Nat.succ_mul, Nat.add_comm]

/-- R122: a bit is one data write and one pulse. -/
theorem countWrites_bitsTrace (p : PinId) (c : Config) (f : FrameWord) (n : Nat) :
    countWrites p (bitsTrace c f n) = n * ((if c.dataPin = p then 1 else 0) + countWrites p (pulse c)) := by
  induction n with
  | zero => exact (Nat.zero_mul _).symm
  | succ n ih => rw [bitsTrace, countWrites, countWrites_append, ih]; ring

theorem countWrites_framesTrace (p : PinId) (c : Config) (vs : List Pixel) :
    countWrites p (framesTrace c vs) =
      25 * vs.length * ((if c.dataPin = p then 1 else 0) + countWrites p (pulse c)) := by
  induction vs with
  | nil => exact (Nat.zero_mul _).symm
  | cons v vs ih =>
    have bits : countWrites p (frameTrace c v) = 25 * ((if c.dataPin = p then 1 else 0) + countWrites p (pulse c)) :=
      countWrites_bitsTrace p c (frame v) 25
    rw [framesTrace, countWrites_append, bits, ih, List.length_cons]
    ring

/-- R126: `T_show` is `P + 25N + B` pulses and `25N + 2` data writes, for any pins. -/
theorem countWrites_showTrace (p : PinId) (c : Config) (vs : List Pixel) :
    countWrites p (showTrace c vs) =
      (25 * vs.length + 2) * (if c.dataPin = p then 1 else 0) +
        (c.preamblePulses.toNat + 25 * vs.length + c.blankPulses.toNat) * countWrites p (pulse c) := by
  simp only [showTrace, preambleTrace, blankTrace, countWrites, countWrites_append,
    countWrites_pulses, countWrites_framesTrace]
  ring

/-- Settles O42: a pulse is two writes of the clock pin and none of another (`countWrites_showTrace`). -/
theorem showWriteCounts : Obligations.ShowWriteCounts := by
  intro c vs wf
  have other := clockPin_ne_dataPin wf
  have clock : countWrites c.clockPin (pulse c) = 2 := by simp [pulse, countWrites]
  have data : countWrites c.dataPin (pulse c) = 0 := by simp [pulse, countWrites, other]
  rw [countWrites_showTrace, countWrites_showTrace, clock, data, if_neg other.symm, if_pos rfl]
  omega

end Sys2Proof.Machine
end

section
/-! PROOFS. The command `withFetchWord` places (log entries 13 and 14): what a row of the opcode table is placed as, and
the step that runs it. -/

namespace Sys2Proof.Machine

/-! ### What is placed -/

/-- R71: an encoded command is as many words as its `OPC` asks for. -/
theorem take_commandWords_encode (i : Instr) (rest : List Word) :
    (encode i ++ rest).take (commandWords (opcodeField (headerWord i))) = encode i :=
  List.take_left' (encode_shape i).1

theorem decode_tableWords_of_row {nbits w : Nat} {i : Instr} (row : decodeTableWord nbits w = some i) :
    ∃ rest, decode (tableWords nbits w) = .command i rest := by
  unfold decodeTableWord at row
  split at row
  · next j rest dec =>
    cases row
    exact ⟨rest, dec⟩
  · cases row
  · cases row

/-- The row's first word is the command's header, so the words taken from it are the command's own. -/
theorem tableCommand_of_row {nbits w : Nat} {i : Instr} (row : decodeTableWord nbits w = some i) :
    tableCommand nbits w = encode i := by
  obtain ⟨rest, dec⟩ := decode_tableWords_of_row row
  have words : tableWords nbits w = encode i ++ rest := decodedCommandIsItsEncoding _ i rest dec
  have header : BitVec.ofNat 32 (w % 2 ^ nbits) = headerWord i := (List.cons.inj words).1
  rw [tableCommand, words, header, take_commandWords_encode]

/-! ### The sequencer freed for it -/

/-- Ending an INIT or SHOW changes the mode and the phase alone. -/
theorem freeSequencer_frame (s : State) :
    freeSequencer s = { s with mode := (freeSequencer s).mode, phase := (freeSequencer s).phase } := by
  unfold freeSequencer
  split
  · rfl
  · split <;> rfl

@[simp] theorem freeSequencer_cmd0 (s : State) : (freeSequencer s).cmd0 = s.cmd0 := by rw [freeSequencer_frame]

@[simp] theorem freeSequencer_turns (s : State) : (freeSequencer s).turns = s.turns := by rw [freeSequencer_frame]

@[simp] theorem freeSequencer_busy (s : State) : (freeSequencer s).busy = false := by
  unfold freeSequencer
  split
  · rfl
  · next notInit =>
    split
    · rfl
    · next notShow => simp [State.busy, notInit, notShow]

/-! ### The step that runs it -/

/-- Once the placed words are consumed and the placed turn is used up, `CMD0` and the turns are as they were before. -/
theorem consume_placeCommand (ws : List Word) (s : State) :
    consume .h0 s.cmd0 { placeCommand ws s with turns := s.turns } = { freeSequencer s with port := .h0 } :=
  calc consume .h0 s.cmd0 { placeCommand ws s with turns := s.turns }
      = { freeSequencer s with cmd0 := s.cmd0, turns := s.turns, port := .h0 } := rfl
    _ = { freeSequencer s with
          cmd0 := (freeSequencer s).cmd0, turns := (freeSequencer s).turns, port := .h0 } := by
        rw [freeSequencer_cmd0, freeSequencer_turns]

/-- The placed turn is an accept turn at a port that takes its command, whatever the sequencer did before. -/
theorem step_placeCommand_encode (i : Instr) (s : State) :
    step (placeCommand (encode i) s) = exec i { freeSequencer s with port := .h0 } := by
  obtain ⟨runsTurn, -⟩ := stepRunsTheDecodedCommand
  have takes : (placeCommand (encode i) s).portTakes .h0 = true := congrArg (!·) (freeSequencer_busy s)
  have dec : decode (encode i ++ s.cmd0) = .command i s.cmd0 := encodedCommandDecodes i s.cmd0
  calc step (placeCommand (encode i) s)
      = exec i (consume .h0 s.cmd0 { placeCommand (encode i) s with turns := s.turns }) :=
        runsTurn _ .h0 i s.cmd0 s.turns rfl rfl takes dec
    _ = exec i { freeSequencer s with port := .h0 } := congrArg (exec i) (consume_placeCommand _ s)

/-- Settles O10: the row is placed as the words of its command (`tableCommand_of_row`), which the next step runs. -/
theorem placedCommandRunsNext : Obligations.PlacedCommandRunsNext := by
  intro s nbits w i row
  rw [State.withFetchWord, tableCommand_of_row row]
  exact step_placeCommand_encode i s

end Sys2Proof.Machine
end
